-- ==== Sys2Proof/Word.lean ====
section
/-! DEFINITION. Word.lean: the two word widths of the core. -/

namespace Sys2Proof

/-- A general register and the ALU are 8 bits wide (`XLEN` of 00_scope.md R5). -/
abbrev Byte := BitVec 8

/-- PC, SP, a register pair and an address are 16 bits wide (`ALEN` of 00_scope.md R5). -/
abbrev Addr := BitVec 16

end Sys2Proof
end

