-- ==== Sys2Proof/Config.lean ====
section
/-! DEFINITION. Config.lean: the fixed parameters of 00_scope.md R5 that the model uses. The two parameters the spec
leaves OPEN (`ADDR_OK`, `STORE`) are fields of State, so that every statement holds for every value of them (log 1, 3). -/

namespace Sys2Proof.Config

/-- `RESET_PC` (00_scope.md R5; 70_reset_and_hazards.md R181). -/
def resetPc : Addr := 0x0100

/-- `RESET_SP` (00_scope.md R5). -/
def resetSp : Addr := 0xFFFE

/-- `QMAX`: the largest number of entries ever in the micro-op queue (10_state.md R23). -/
def qMax : Nat := 2

/-- The number of addresses of the one address space, 0x0000..0xFFFF (20_memory.md R30). -/
def addressSpace : Nat := 65536

/-- What a byte that nothing has written reads as: 0x00, as in the RAM of the spec's test vectors (92_eei_decisions.md
D12). DESIGN CHOICE, unsafe (log 2): the rules leave the store's contents open. -/
def unlistedByte : Byte := 0x00

end Sys2Proof.Config
end

