-- ==== Sys2Proof/Syntax.lean ====
section
/-! DEFINITION. Syntax.lean: the operand names, the instructions (one constructor per row of spec/opcode_table.json) and
the micro-ops. -/

namespace Sys2Proof

/-- The seven general 8-bit registers (10_state.md R10), in the order of their codes (30_encoding.md R53). -/
inductive Reg8 where
  | b | c | d | e | h | l | a
  deriving DecidableEq, Repr

/-- The three 16-bit views of register pairs (10_state.md R15); there is no AF view (R16). -/
inductive Pair where
  | bc | de | hl
  deriving DecidableEq, Repr

/-- The eight ALU operations, in the order of their codes (30_encoding.md R55). -/
inductive AluOp where
  | add | adc | sub | sbc | and | xor | or | cp
  deriving DecidableEq, Repr

/-- The four stores of A: through BC, through DE, through HL then HL + 1, through HL then HL - 1 (30_encoding.md R54,
third column). -/
inductive StoreMode where
  | bc | de | hlInc | hlDec
  deriving DecidableEq, Repr

/-- The four condition bits (10_state.md R11): Zero, Subtraction, Half-Carry, Carry. -/
inductive FlagName where
  | z | n | h | c
  deriving DecidableEq, Repr

/-- The 122 instructions (30_encoding.md R57). An instruction is what its opcode byte selects (R50); the two immediate
bytes of LD rr,d16 are read in later steps and are no part of it (R56; log 9). -/
inductive Instr where
  -- LD rr,d16 (43_ld16_imm.md R121 to R123)
  | ldBcD16 | ldDeD16 | ldHlD16
  -- stores of A through a pair (44_stores.md R131 to R134)
  | ldMemBcA | ldMemDeA | ldMemHlIncA | ldMemHlDecA
  -- INC rr (45_inc16.md R141 to R143)
  | incBc | incDe | incHl
  -- INC r (42_ld_inc8.md R111)
  | incB | incC | incD | incE | incH | incL | incA
  -- LD r,r' (42_ld_inc8.md R110)
  | ldBB | ldBC | ldBD | ldBE | ldBH | ldBL | ldBA
  | ldCB | ldCC | ldCD | ldCE | ldCH | ldCL | ldCA
  | ldDB | ldDC | ldDD | ldDE | ldDH | ldDL | ldDA
  | ldEB | ldEC | ldED | ldEE | ldEH | ldEL | ldEA
  | ldHB | ldHC | ldHD | ldHE | ldHH | ldHL | ldHA
  | ldLB | ldLC | ldLD | ldLE | ldLH | ldLL | ldLA
  | ldAB | ldAC | ldAD | ldAE | ldAH | ldAL | ldAA
  -- ALU A,r (41_alu.md R100 to R107)
  | addAB | addAC | addAD | addAE | addAH | addAL | addAA
  | adcAB | adcAC | adcAD | adcAE | adcAH | adcAL | adcAA
  | subAB | subAC | subAD | subAE | subAH | subAL | subAA
  | sbcAB | sbcAC | sbcAD | sbcAE | sbcAH | sbcAL | sbcAA
  | andAB | andAC | andAD | andAE | andAH | andAL | andAA
  | xorAB | xorAC | xorAD | xorAE | xorAH | xorAL | xorAA
  | orAB | orAC | orAD | orAE | orAH | orAL | orAA
  | cpAB | cpAC | cpAD | cpAE | cpAH | cpAL | cpAA
  deriving DecidableEq, Repr

/-- A pending sub-instruction action, one of exactly three variants (10_state.md R22). -/
inductive MicroOp where
  /-- "load immediate into register X": `x[X] <- MemRead(PC, 1)` (40_execution_engine.md R74). -/
  | loadImm8 (r : Reg8)
  /-- "store value V to address A", both captured at dispatch (R75). -/
  | storeMem (a : Addr) (v : Byte)
  /-- "write 16-bit value V into register pair P", the value captured at dispatch (R76). -/
  | writeReg16 (p : Pair) (v : Addr)
  deriving DecidableEq, Repr

/-- The direction of a byte-store access: the `kind` of a BusFault (60_exceptions.md R152). -/
inductive AccessKind where
  | read | write
  deriving DecidableEq, Repr

/-- An instruction as it lies in memory: its opcode, then the bytes up to the next opcode, at ascending addresses
(30_encoding.md R51). -/
structure Laid where
  op   : Instr
  tail : List Byte
  deriving DecidableEq, Repr

end Sys2Proof
end

