-- ==== Sys2Proof/Machine/State.lean ====
section
/-! DEFINITION. Machine/State.lean: the state of the core (10_state.md), the byte store it is bound to, the ways a step
can stop, and reset. -/

namespace Sys2Proof.Machine

/-- The Flag Set (10_state.md R11). The byte F is a view of these four bits, not a second storage (R11, R12; log 6). -/
structure Flags where
  z : Bool
  n : Bool
  h : Bool
  c : Bool
  deriving DecidableEq, Repr

/-- The contents of the byte store: address and byte pairs in the canonical form of `Memory.wf` (log 2). -/
abbrev Memory := List Host.Cell

/-- The addresses `lo`, `lo + 1`, …, `hi - 1`; empty when `hi ≤ lo` (log 3). -/
structure AddrRange where
  lo : Nat
  hi : Nat
  deriving DecidableEq, Repr

/-- A fault record, the content of the FAULT latch (10_state.md R25; 60_exceptions.md R155). -/
inductive FaultRecord where
  /-- Code 1 (60_exceptions.md R151): the offending byte and the address it was fetched from. -/
  | decodeFault (opcode : Byte) (addr : Addr)
  /-- Code 2 (60_exceptions.md R152): the rejected address and the direction of the access. -/
  | busFault (addr : Addr) (kind : AccessKind)
  deriving DecidableEq, Repr

/-- The whole state: the tuple at the head of 10_state.md, then the byte store the core is bound to. -/
structure State where
  /-- A, the accumulator (R10). -/
  a : Byte
  b : Byte
  c : Byte
  d : Byte
  e : Byte
  h : Byte
  l : Byte
  /-- F (R11). -/
  f : Flags
  /-- PC (R17). -/
  pc : Addr
  /-- SP (R19). -/
  sp : Addr
  /-- Q, front first (R21). -/
  queue : List MicroOp
  /-- FAULT (R25). -/
  fault : Option FaultRecord
  /-- The contents of the byte store (20_memory.md R31; log 1). -/
  mem : Memory
  /-- The complement of `ADDR_OK`: the addresses the byte store rejects (20_memory.md R33; log 3). -/
  rejected : List AddrRange
  deriving DecidableEq, Repr

/-- How `step()` returns a typed failure (60_exceptions.md R153). Each carries the record the host receives and, as
`left`, the whole state the failing step leaves (R157; log 4): its FAULT holds that same record. -/
inductive Fault where
  /-- DecodeFault, code 1: raised by an Idle step whose opcode byte is unmapped, and again by every later step
  (60_exceptions.md R151, R156). Safe: the hardware stops too. -/
  | decodeFault (opcode : Byte) (addr : Addr) (left : State)
  /-- BusFault, code 2: raised by a step whose one access the byte store rejects, and again by every later step
  (60_exceptions.md R152, R156). Safe: the hardware stops too. -/
  | busFault (addr : Addr) (kind : AccessKind) (left : State)
  deriving DecidableEq, Repr

/-- Refusals. -/
inductive Refusal where
  /-- Answered by an arm of `exec` whose instruction has no meaning yet. No arm answers it. Safe. -/
  | notModelled (mnemonic : String)
  deriving DecidableEq, Repr

/-- `new(byte_store)`: the only reset (00_scope.md R6; 70_reset_and_hazards.md R180), with the values of 10_state.md R29.
The byte store is bound as it is, not reset. -/
def State.construct (mem : Memory) (rejected : List AddrRange) : State where
  a := 0x00
  b := 0x00
  c := 0x00
  d := 0x00
  e := 0x00
  h := 0x00
  l := 0x00
  f := ⟨false, false, false, false⟩
  pc := Config.resetPc
  sp := Config.resetSp
  queue := []
  fault := none
  mem := mem
  rejected := rejected

/-- The core newly constructed on a byte store that holds nothing and rejects nothing (the default `ADDR_OK` of
20_memory.md R33; log 2, log 3, log 8). -/
def State.reset : State := State.construct [] []

end Sys2Proof.Machine
end

