-- ==== Sys2Proof/Machine/Flags.lean ====
section
/-! DEFINITION. Machine/Flags.lean: the Flag Set primitives (10_state.md R12, R13) and the eight ALU functions with their
flags (41_alu.md R90 to R98). -/

namespace Sys2Proof.Machine

/-! ## The Flag Set primitives (10_state.md R13) -/

/-- `clear()` "zeroes all four bits". -/
def Flags.clear (_ : Flags) : Flags := ⟨false, false, false, false⟩

/-- `set(flag, bool)`: one bit written, the other three unchanged. -/
def Flags.set (f : Flags) (name : FlagName) (v : Bool) : Flags :=
  match name with
  | .z => { f with z := v } | .n => { f with n := v } | .h => { f with h := v } | .c => { f with c := v }

/-- `test(flag)`. -/
def Flags.test (f : Flags) : FlagName → Bool
  | .z => f.z | .n => f.n | .h => f.h | .c => f.c

/-- A freshly computed Flag Set, "always cleared first, then set bit-by-bit" (41_alu.md R90; `F <- (z, n, h, c)` of R13). -/
def flagsOf (z n h c : Bool) : Flags :=
  ((((Flags.clear ⟨false, false, false, false⟩).set .z z).set .n n).set .h h).set .c c

/-- The byte view of F: `F.Z << 7 | F.N << 6 | F.H << 5 | F.C << 4`, bits 3..0 read as 0 (10_state.md R12; PRESUMED layout,
log 6). No instruction uses it. -/
def Flags.toByte (f : Flags) : Byte :=
  (BitVec.ofBool f.z ++ BitVec.ofBool f.n ++ BitVec.ofBool f.h ++ BitVec.ofBool f.c ++ (0 : BitVec 4) : BitVec 8)

/-- Writing F as a byte: bits 3..0 "ignore writes" (10_state.md R12; log 6). No instruction does it. -/
def Flags.ofByte (v : Byte) : Flags := flagsOf (v.getLsbD 7) (v.getLsbD 6) (v.getLsbD 5) (v.getLsbD 4)

/-! ## The ALU functions (41_alu.md part 1) -/

/-- The outputs of an ALU function: the 8-bit result and all four flags (41_alu.md R90). -/
structure AluOut where
  result : Byte
  flags  : Flags
  deriving DecidableEq, Repr

/-- `x & 0xF`, as a number. -/
def lowNibble (x : Byte) : Nat := (x &&& 0x0F).toNat

/-- The carry as a number, 0 or 1 (41_alu.md R90). -/
def carryIn (c : Bool) : Nat := c.toNat

/-- adc (41_alu.md R92): the carry takes part in the half-carry and the carry test, as one three-term sum. -/
def aluAdc (x y : Byte) (cin : Bool) : AluOut :=
  let sum := x.toNat + y.toNat + carryIn cin
  let result : Byte := BitVec.ofNat 8 sum
  ⟨result, flagsOf (result == 0) false (decide (lowNibble x + lowNibble y + carryIn cin > 0xF)) (decide (sum > 255))⟩

/-- add (41_alu.md R91). -/
def aluAdd (x y : Byte) : AluOut :=
  let sum := x.toNat + y.toNat
  let result : Byte := BitVec.ofNat 8 sum
  ⟨result, flagsOf (result == 0) false (decide (lowNibble x + lowNibble y > 0xF)) (decide (sum > 255))⟩

/-- sub (41_alu.md R93). -/
def aluSub (x y : Byte) : AluOut :=
  let result : Byte := BitVec.ofInt 8 ((x.toNat : Int) - y.toNat)
  ⟨result, flagsOf (result == 0) true (decide (lowNibble x < lowNibble y)) (decide (x.toNat < y.toNat))⟩

/-- sbc (41_alu.md R94), both flag formulas taken literally (90_conflicts.md C3): H compares with the low nibble of the
8-bit `y - cin`, C is `result >= x`. -/
def aluSbc (x y : Byte) (cin : Bool) : AluOut :=
  let result : Byte := BitVec.ofInt 8 ((x.toNat : Int) - y.toNat - carryIn cin)
  let yc : Byte := BitVec.ofInt 8 ((y.toNat : Int) - carryIn cin)
  ⟨result, flagsOf (result == 0) true (decide (lowNibble x < lowNibble yc)) (decide (result.toNat ≥ x.toNat))⟩

/-- and (41_alu.md R95): Half-Carry "always set". -/
def aluAnd (x y : Byte) : AluOut := ⟨x &&& y, flagsOf (x &&& y == 0) false true false⟩

/-- or (41_alu.md R96). -/
def aluOr (x y : Byte) : AluOut := ⟨x ||| y, flagsOf (x ||| y == 0) false false false⟩

/-- xor (41_alu.md R97). -/
def aluXor (x y : Byte) : AluOut := ⟨x ^^^ y, flagsOf (x ^^^ y == 0) false false false⟩

/-- cp (41_alu.md R98): no result, the flags exactly as sub gives them. -/
def aluCp (x y : Byte) : Flags := (aluSub x y).flags

end Sys2Proof.Machine
end

