-- ==== Sys2Proof/Decode.lean ====
section
/-! DEFINITION. Decode.lean: from bytes to an instruction (the field form of 30_encoding.md R52 to R57) and, from the
opcode rows of the 4N files and of opcode_table.json, the encoder. -/

namespace Sys2Proof

/-! ## The fields of the opcode byte (30_encoding.md R52) -/

/-- `x = op[7:6]`. -/
def fieldX (op : Byte) : Nat := (op.extractLsb' 6 2).toNat
/-- `y = op[5:3]`. -/
def fieldY (op : Byte) : Nat := (op.extractLsb' 3 3).toNat
/-- `z = op[2:0]`. -/
def fieldZ (op : Byte) : Nat := (op.extractLsb' 0 3).toNat
/-- `p = op[5:4]`. -/
def fieldP (op : Byte) : Nat := (op.extractLsb' 4 2).toNat
/-- `q = op[3]`. -/
def fieldQ (op : Byte) : Nat := (op.extractLsb' 3 1).toNat

/-- 8-bit register codes (30_encoding.md R53); code 6 is not a register. -/
def regOfCode : Nat → Option Reg8
  | 0 => some .b | 1 => some .c | 2 => some .d | 3 => some .e | 4 => some .h | 5 => some .l | 7 => some .a
  | _ => none

/-- Register-pair codes of LD rr,d16 and INC rr (30_encoding.md R54); code 3 is unmapped. -/
def pairOfCode : Nat → Option Pair
  | 0 => some .bc | 1 => some .de | 2 => some .hl
  | _ => none

/-- Register-pair codes of the stores (30_encoding.md R54). -/
def storeModeOfCode : Nat → Option StoreMode
  | 0 => some .bc | 1 => some .de | 2 => some .hlInc | 3 => some .hlDec
  | _ => none

/-- ALU operation codes (30_encoding.md R55): XOR is 5 and OR is 6. -/
def aluOpOfCode : Nat → Option AluOp
  | 0 => some .add | 1 => some .adc | 2 => some .sub | 3 => some .sbc
  | 4 => some .and | 5 => some .xor | 6 => some .or | 7 => some .cp
  | _ => none

/-! ## The instruction an operand choice names -/

/-- LD r,r', destination first (42_ld_inc8.md R110). -/
def ldInstr (dst src : Reg8) : Instr :=
  match dst, src with
  | .b, .b => .ldBB | .b, .c => .ldBC | .b, .d => .ldBD | .b, .e => .ldBE | .b, .h => .ldBH | .b, .l => .ldBL | .b, .a => .ldBA
  | .c, .b => .ldCB | .c, .c => .ldCC | .c, .d => .ldCD | .c, .e => .ldCE | .c, .h => .ldCH | .c, .l => .ldCL | .c, .a => .ldCA
  | .d, .b => .ldDB | .d, .c => .ldDC | .d, .d => .ldDD | .d, .e => .ldDE | .d, .h => .ldDH | .d, .l => .ldDL | .d, .a => .ldDA
  | .e, .b => .ldEB | .e, .c => .ldEC | .e, .d => .ldED | .e, .e => .ldEE | .e, .h => .ldEH | .e, .l => .ldEL | .e, .a => .ldEA
  | .h, .b => .ldHB | .h, .c => .ldHC | .h, .d => .ldHD | .h, .e => .ldHE | .h, .h => .ldHH | .h, .l => .ldHL | .h, .a => .ldHA
  | .l, .b => .ldLB | .l, .c => .ldLC | .l, .d => .ldLD | .l, .e => .ldLE | .l, .h => .ldLH | .l, .l => .ldLL | .l, .a => .ldLA
  | .a, .b => .ldAB | .a, .c => .ldAC | .a, .d => .ldAD | .a, .e => .ldAE | .a, .h => .ldAH | .a, .l => .ldAL | .a, .a => .ldAA

/-- ALU A,r (41_alu.md R99). -/
def aluInstr (op : AluOp) (r : Reg8) : Instr :=
  match op, r with
  | .add, .b => .addAB | .add, .c => .addAC | .add, .d => .addAD | .add, .e => .addAE | .add, .h => .addAH | .add, .l => .addAL | .add, .a => .addAA
  | .adc, .b => .adcAB | .adc, .c => .adcAC | .adc, .d => .adcAD | .adc, .e => .adcAE | .adc, .h => .adcAH | .adc, .l => .adcAL | .adc, .a => .adcAA
  | .sub, .b => .subAB | .sub, .c => .subAC | .sub, .d => .subAD | .sub, .e => .subAE | .sub, .h => .subAH | .sub, .l => .subAL | .sub, .a => .subAA
  | .sbc, .b => .sbcAB | .sbc, .c => .sbcAC | .sbc, .d => .sbcAD | .sbc, .e => .sbcAE | .sbc, .h => .sbcAH | .sbc, .l => .sbcAL | .sbc, .a => .sbcAA
  | .and, .b => .andAB | .and, .c => .andAC | .and, .d => .andAD | .and, .e => .andAE | .and, .h => .andAH | .and, .l => .andAL | .and, .a => .andAA
  | .xor, .b => .xorAB | .xor, .c => .xorAC | .xor, .d => .xorAD | .xor, .e => .xorAE | .xor, .h => .xorAH | .xor, .l => .xorAL | .xor, .a => .xorAA
  | .or, .b => .orAB | .or, .c => .orAC | .or, .d => .orAD | .or, .e => .orAE | .or, .h => .orAH | .or, .l => .orAL | .or, .a => .orAA
  | .cp, .b => .cpAB | .cp, .c => .cpAC | .cp, .d => .cpAD | .cp, .e => .cpAE | .cp, .h => .cpAH | .cp, .l => .cpAL | .cp, .a => .cpAA

/-- INC r (42_ld_inc8.md R111). -/
def inc8Instr : Reg8 → Instr
  | .b => .incB | .c => .incC | .d => .incD | .e => .incE | .h => .incH | .l => .incL | .a => .incA

/-- LD rr,d16 (43_ld16_imm.md R121 to R123). -/
def ld16Instr : Pair → Instr
  | .bc => .ldBcD16 | .de => .ldDeD16 | .hl => .ldHlD16

/-- The store of A through a pair (44_stores.md R131 to R134). -/
def storeInstr : StoreMode → Instr
  | .bc => .ldMemBcA | .de => .ldMemDeA | .hlInc => .ldMemHlIncA | .hlDec => .ldMemHlDecA

/-- INC rr (45_inc16.md R141 to R143). -/
def inc16Instr : Pair → Instr
  | .bc => .incBc | .de => .incDe | .hl => .incHl

/-! ## The decoder -/

/-- The dispatch-table lookup, in the field form of 30_encoding.md R57, same order of tests. `none` is an unmapped
opcode (R58). -/
def decodeOpcode (op : Byte) : Option Instr :=
  let x := fieldX op
  let y := fieldY op
  let z := fieldZ op
  let p := fieldP op
  let q := fieldQ op
  if x = 1 ∧ y ≠ 6 ∧ z ≠ 6 then
    match regOfCode y, regOfCode z with
    | some dst, some src => some (ldInstr dst src)
    | _, _ => none
  else if x = 2 ∧ z ≠ 6 then
    match aluOpOfCode y, regOfCode z with
    | some o, some src => some (aluInstr o src)
    | _, _ => none
  else if x = 0 ∧ z = 4 ∧ y ≠ 6 then (regOfCode y).map inc8Instr
  else if x = 0 ∧ z = 1 ∧ q = 0 ∧ p ≠ 3 then (pairOfCode p).map ld16Instr
  else if x = 0 ∧ z = 3 ∧ q = 0 ∧ p ≠ 3 then (pairOfCode p).map inc16Instr
  else if x = 0 ∧ z = 2 ∧ q = 0 then (storeModeOfCode p).map storeInstr
  else none

/-- The length of an instruction, told from its opcode byte alone (30_encoding.md R60, by the classes of R57): 3 for
0x01 0x11 0x21; 2 for 0x02 0x12 0x22 0x32 0x03 0x13 0x23; 1 for every other mapped opcode. -/
def lengthOfOpcode (op : Byte) : Nat :=
  if op = 0x01 ∨ op = 0x11 ∨ op = 0x21 then 3
  else if op = 0x02 ∨ op = 0x12 ∨ op = 0x22 ∨ op = 0x32 ∨ op = 0x03 ∨ op = 0x13 ∨ op = 0x23 then 2
  else 1

/-- Why a list of bytes is no instruction. -/
inductive DecodeReject where
  /-- There is no byte. -/
  | noByte
  /-- The first byte is one of the 134 unmapped values (30_encoding.md R58). -/
  | unmapped (op : Byte)
  /-- The bytes end before the instruction does (30_encoding.md R51). -/
  | truncated (i : Instr)
  deriving DecidableEq, Repr

/-- The first instruction of a list of bytes, with its trailing bytes, and the bytes after it. -/
def decode : List Byte → Except DecodeReject (Laid × List Byte)
  | [] => .error .noByte
  | op :: rest =>
    match decodeOpcode op with
    | none => .error (.unmapped op)
    | some i =>
      let n := lengthOfOpcode op - 1
      if n ≤ rest.length then .ok (⟨i, rest.take n⟩, rest.drop n) else .error (.truncated i)

/-- The instructions of a list of bytes, one after another until no byte is left; `fuel` bounds their number. -/
def disassemble : Nat → List Byte → Option (List Laid)
  | _, [] => some []
  | 0, _ :: _ => none
  | fuel + 1, op :: rest =>
    match decode (op :: rest) with
    | .ok (x, more) => (disassemble fuel more).map (x :: ·)
    | .error _ => none

/-- The bytes of an instruction whose bits are `w`, `nbits` of them given and the bits above zero, up to the longest
instruction (three bytes), first byte first. -/
def bytesOfTableWord (nbits w : Nat) : List Byte :=
  let v := w % 2 ^ nbits
  [BitVec.ofNat 8 v, BitVec.ofNat 8 (v / 256), BitVec.ofNat 8 (v / 65536)]

/-- What the decoder reads from an instruction whose bits are `w`, numbered as spec/opcode_table.json numbers them. -/
def decodeTableWord (nbits w : Nat) : Option Instr :=
  match decode (bytesOfTableWord nbits w) with
  | .ok (x, _) => some x.op
  | .error _ => none

/-! ## The encoder -/

/-- The opcode byte of each row, as the encoding lines of the 4N files and opcode_table.json list it. -/
def opcodeOf : Instr → Byte
  -- LD rr,d16 (43_ld16_imm.md R121 to R123)
  | .ldBcD16 => 0x01 | .ldDeD16 => 0x11 | .ldHlD16 => 0x21
  -- stores of A through a pair (44_stores.md R131 to R134)
  | .ldMemBcA => 0x02 | .ldMemDeA => 0x12 | .ldMemHlIncA => 0x22 | .ldMemHlDecA => 0x32
  -- INC rr (45_inc16.md R141 to R143)
  | .incBc => 0x03 | .incDe => 0x13 | .incHl => 0x23
  -- INC r (42_ld_inc8.md R111)
  | .incB => 0x04 | .incC => 0x0C | .incD => 0x14 | .incE => 0x1C | .incH => 0x24 | .incL => 0x2C | .incA => 0x3C
  -- LD r,r' (42_ld_inc8.md R110)
  | .ldBB => 0x40 | .ldBC => 0x41 | .ldBD => 0x42 | .ldBE => 0x43 | .ldBH => 0x44 | .ldBL => 0x45 | .ldBA => 0x47
  | .ldCB => 0x48 | .ldCC => 0x49 | .ldCD => 0x4A | .ldCE => 0x4B | .ldCH => 0x4C | .ldCL => 0x4D | .ldCA => 0x4F
  | .ldDB => 0x50 | .ldDC => 0x51 | .ldDD => 0x52 | .ldDE => 0x53 | .ldDH => 0x54 | .ldDL => 0x55 | .ldDA => 0x57
  | .ldEB => 0x58 | .ldEC => 0x59 | .ldED => 0x5A | .ldEE => 0x5B | .ldEH => 0x5C | .ldEL => 0x5D | .ldEA => 0x5F
  | .ldHB => 0x60 | .ldHC => 0x61 | .ldHD => 0x62 | .ldHE => 0x63 | .ldHH => 0x64 | .ldHL => 0x65 | .ldHA => 0x67
  | .ldLB => 0x68 | .ldLC => 0x69 | .ldLD => 0x6A | .ldLE => 0x6B | .ldLH => 0x6C | .ldLL => 0x6D | .ldLA => 0x6F
  | .ldAB => 0x78 | .ldAC => 0x79 | .ldAD => 0x7A | .ldAE => 0x7B | .ldAH => 0x7C | .ldAL => 0x7D | .ldAA => 0x7F
  -- ALU A,r (41_alu.md R100 to R107)
  | .addAB => 0x80 | .addAC => 0x81 | .addAD => 0x82 | .addAE => 0x83 | .addAH => 0x84 | .addAL => 0x85 | .addAA => 0x87
  | .adcAB => 0x88 | .adcAC => 0x89 | .adcAD => 0x8A | .adcAE => 0x8B | .adcAH => 0x8C | .adcAL => 0x8D | .adcAA => 0x8F
  | .subAB => 0x90 | .subAC => 0x91 | .subAD => 0x92 | .subAE => 0x93 | .subAH => 0x94 | .subAL => 0x95 | .subAA => 0x97
  | .sbcAB => 0x98 | .sbcAC => 0x99 | .sbcAD => 0x9A | .sbcAE => 0x9B | .sbcAH => 0x9C | .sbcAL => 0x9D | .sbcAA => 0x9F
  | .andAB => 0xA0 | .andAC => 0xA1 | .andAD => 0xA2 | .andAE => 0xA3 | .andAH => 0xA4 | .andAL => 0xA5 | .andAA => 0xA7
  | .xorAB => 0xA8 | .xorAC => 0xA9 | .xorAD => 0xAA | .xorAE => 0xAB | .xorAH => 0xAC | .xorAL => 0xAD | .xorAA => 0xAF
  | .orAB => 0xB0 | .orAC => 0xB1 | .orAD => 0xB2 | .orAE => 0xB3 | .orAH => 0xB4 | .orAL => 0xB5 | .orAA => 0xB7
  | .cpAB => 0xB8 | .cpAC => 0xB9 | .cpAD => 0xBA | .cpAE => 0xBB | .cpAH => 0xBC | .cpAL => 0xBD | .cpAA => 0xBF

/-- The number of consecutive addresses an instruction occupies (30_encoding.md R51). -/
def Instr.length (i : Instr) : Nat := lengthOfOpcode (opcodeOf i)

/-- The bytes of an instruction as it lies in memory (30_encoding.md R51): the opcode, then its trailing bytes. -/
def encode (x : Laid) : List Byte := opcodeOf x.op :: x.tail

/-- LD rr,d16 with its immediate: low byte, then high byte (30_encoding.md R51, R56). -/
def laidLd16 (p : Pair) (d16 : Addr) : Laid := ⟨ld16Instr p, [d16.extractLsb' 0 8, d16.extractLsb' 8 8]⟩

/-- The bytes of a sequence of instructions, one after another. -/
def assemble : List Laid → List Byte
  | [] => []
  | x :: xs => encode x ++ assemble xs

end Sys2Proof
end

