-- ==== Sys2Proof/WellFormed.lean ====
section
/-! DEFINITION. WellFormed.lean: what is well formed among laid-out instructions, micro-ops and queues. An Instr by itself
is always well formed: each of its constructors is one mapped opcode and carries no operand. -/

namespace Sys2Proof

/-- A laid-out instruction has exactly the bytes its format gives it after the opcode: none (OP), one skipped byte
(OP_SKIP) or two immediate bytes (OP_D16) (30_encoding.md R51). -/
def Laid.wellFormed (x : Laid) : Bool := x.tail.length + 1 == x.op.length

/-- The low and the high register of a pair (10_state.md R15). -/
def Pair.loReg : Pair → Reg8
  | .bc => .c | .de => .e | .hl => .l

@[inherit_doc Pair.loReg]
def Pair.hiReg : Pair → Reg8
  | .bc => .b | .de => .d | .hl => .h

/-- `LoadImm8` targets one of B C D E H L, never A (10_state.md R22). The other two variants take any payload. -/
def MicroOp.wellFormed : MicroOp → Bool
  | .loadImm8 r => r != .a
  | .storeMem _ _ => true
  | .writeReg16 _ _ => true

/-- The possible contents of Q at a step boundary (10_state.md R23): empty; the two loads of a pair, low register first;
the load of a high register alone; one store; one pair write. -/
def queueWellFormed : List MicroOp → Bool
  | [] => true
  | [.loadImm8 r] => r == .b || r == .d || r == .h
  | [.storeMem _ _] => true
  | [.writeReg16 _ _] => true
  | [.loadImm8 lo, .loadImm8 hi] => (lo == .c && hi == .b) || (lo == .e && hi == .d) || (lo == .l && hi == .h)
  | _ => false

end Sys2Proof
end

