-- ==== Sys2Proof/Machine/Ops.lean ====
section
/-! DEFINITION. Machine/Ops.lean: the named operations over memory, registers, PC, the queue and the fault latch. -/

namespace Sys2Proof.Machine

/-! ## Memory as data -/

/-- The byte at an address; an unlisted address reads as `Config.unlistedByte` (log 2). -/
def Memory.read : Memory → Nat → Byte
  | [], _ => Config.unlistedByte
  | (k, w) :: m, a => if a = k then w else Memory.read m a

/-- The memory with the byte `v` at `a`, in canonical form again. -/
def Memory.write : Memory → Nat → Byte → Memory
  | [], a, v => if v = Config.unlistedByte then [] else [(a, v)]
  | (k, w) :: m, a, v =>
    if a < k then
      if v = Config.unlistedByte then (k, w) :: m else (a, v) :: (k, w) :: m
    else if a = k then
      if v = Config.unlistedByte then m else (a, v) :: m
    else (k, w) :: Memory.write m a v

/-- The canonical form: addresses inside the address space and strictly rising, no entry equal to what an unlisted address
reads as. Equal memories in this form are equal lists. -/
def Memory.wf : Memory → Bool
  | [] => true
  | (k, w) :: m => decide (k < Config.addressSpace) && w != Config.unlistedByte && m.all (fun e => decide (k < e.1)) && Memory.wf m

/-! ## Which addresses the byte store accepts (20_memory.md R32, R33) -/

/-- The address lies in the range. -/
def AddrRange.contains (r : AddrRange) (a : Nat) : Bool := decide (r.lo ≤ a) && decide (a < r.hi)

/-- `addr` is in `ADDR_OK`. -/
def State.accepts (s : State) (a : Addr) : Bool := !s.rejected.any (fun r => r.contains a.toNat)

/-- The ranges without the one address `a`. -/
def acceptAddr (a : Nat) : List AddrRange → List AddrRange
  | [] => []
  | r :: rs => if r.contains a then ⟨r.lo, a⟩ :: ⟨a + 1, r.hi⟩ :: acceptAddr a rs else r :: acceptAddr a rs

/-! ## The two access primitives (20_memory.md R32) -/

/-- The byte the store holds at an address, whether or not it accepts the address. -/
def State.byteAt (s : State) (a : Addr) : Byte := s.mem.read a.toNat

/-- The store with one byte changed: what a performed `write_byte` does, and what the environment may do between two
steps (20_memory.md R42; log 10). -/
def State.setByte (s : State) (a : Addr) (v : Byte) : State := { s with mem := s.mem.write a.toNat v }

/-- `MemRead(addr, 1)`: a byte, or BusFault(addr, Read) and no access (R32). -/
def memRead (a : Addr) (s : State) : Except FaultRecord Byte :=
  if s.accepts a then .ok (s.byteAt a) else .error (.busFault a .read)

/-- `MemWrite(addr, 1, v)`: the store written, or BusFault(addr, Write) and no access (R32). -/
def memWrite (a : Addr) (v : Byte) (s : State) : Except FaultRecord State :=
  if s.accepts a then .ok (s.setByte a v) else .error (.busFault a .write)

/-! ## Registers (10_state.md R10) -/

/-- `x[r]`. -/
def State.getReg (s : State) : Reg8 → Byte
  | .b => s.b | .c => s.c | .d => s.d | .e => s.e | .h => s.h | .l => s.l | .a => s.a

/-- `x[r] <- v`. -/
def State.setReg (s : State) (r : Reg8) (v : Byte) : State :=
  match r with
  | .b => { s with b := v } | .c => { s with c := v } | .d => { s with d := v } | .e => { s with e := v }
  | .h => { s with h := v } | .l => { s with l := v } | .a => { s with a := v }

/-- `F <- f`. -/
def State.setFlags (s : State) (f : Flags) : State := { s with f := f }

/-! ## Register-file arithmetic (10_state.md R20); none touches a flag -/

/-- `inc16(v) = (v + 1) mod 65536`. -/
def inc16 (v : Addr) : Addr := v + 1
/-- `dec16(v) = (v - 1) mod 65536`. -/
def dec16 (v : Addr) : Addr := v - 1
/-- `inc8(v) = (v + 1) mod 256`. -/
def inc8 (v : Byte) : Byte := v + 1

/-! ## PC and the queue -/

/-- `PC <- (PC + 1) mod 65536`, the only update of PC (10_state.md R18). -/
def State.advancePc (s : State) : State := { s with pc := inc16 s.pc }

/-- Append entries at the back of Q, in the order listed (40_execution_engine.md R78). -/
def State.enqueue (s : State) (es : List MicroOp) : State := { s with queue := s.queue ++ es }

/-- `Q <- tail(Q)` (40_execution_engine.md R70). -/
def State.popQueue (s : State) : State := { s with queue := s.queue.tail }

/-! ## Faults -/

/-- The fault code (60_exceptions.md R155). -/
def FaultRecord.code : FaultRecord → Nat
  | .decodeFault _ _ => 1
  | .busFault _ _ => 2

/-- The typed failure that returns a record, the core being left in `left` (60_exceptions.md R153). -/
def FaultRecord.report (r : FaultRecord) (left : State) : Fault :=
  match r with
  | .decodeFault op a => .decodeFault op a left
  | .busFault a k => .busFault a k left

/-- The record a failure returns to the host. -/
def Fault.record : Fault → FaultRecord
  | .decodeFault op a _ => .decodeFault op a
  | .busFault a k _ => .busFault a k

/-- The state a failing step leaves. -/
def Fault.left : Fault → State
  | .decodeFault _ _ s => s
  | .busFault _ _ s => s

/-- Meeting a fatal condition, the one operation for both (40_execution_engine.md R70, last lines; 60_exceptions.md R157):
`FAULT <- f; return Err(f)`, what the step did before the raise being kept. Nothing is saved and control goes nowhere (R161).
There is no return from it (R162): only `State.construct` gives a core without the fault. -/
def stop (r : FaultRecord) (s : State) : Host.Outcome State Fault Refusal :=
  .fault (r.report { s with fault := some r })

end Sys2Proof.Machine
end

