-- ==== Sys2Proof/Machine/Operands.lean ====
section
/-! DEFINITION. Machine/Operands.lean: the operand forms beyond a plain register: the pair views (10_state.md R15) and the
register-pair indirect address of the stores with its post-modification (44_stores.md R130). -/

namespace Sys2Proof.Machine

/-- `pair[p] = (x[hi] << 8) | x[lo]` (10_state.md R15). -/
def State.getPair (s : State) (p : Pair) : Addr := s.getReg p.hiReg ++ s.getReg p.loReg

/-- `pair[p] <- v`: `x[hi] <- v >> 8`, `x[lo] <- v & 0xFF` (10_state.md R15). -/
def State.setPair (s : State) (p : Pair) (v : Addr) : State :=
  (s.setReg p.hiReg (v.extractLsb' 8 8)).setReg p.loReg (v.extractLsb' 0 8)

/-- The pair a store takes its address from (44_stores.md R131 to R134). -/
def storePair : StoreMode → Pair
  | .bc => .bc | .de => .de | .hlInc => .hl | .hlDec => .hl

/-- The effective address of a store: the pair, unmodified, no offset (44_stores.md R130). -/
def storeAddr (m : StoreMode) (s : State) : Addr := s.getPair (storePair m)

/-- The change of the pair that a store makes at dispatch: none, HL + 1 or HL - 1, modulo 65536 (44_stores.md R130). -/
def postModify (m : StoreMode) (s : State) : State :=
  match m with
  | .bc => s
  | .de => s
  | .hlInc => s.setPair .hl (inc16 (s.getPair .hl))
  | .hlDec => s.setPair .hl (dec16 (s.getPair .hl))

end Sys2Proof.Machine
end

