-- ==== Sys2Proof/Machine/Alu.lean ====
section
/-! DEFINITION. Machine/Alu.lean: the accumulator ALU instructions (41_alu.md R99 to R107), one meaning per opcode. -/

namespace Sys2Proof.Machine

/-- The common template of the eight (41_alu.md R99), for the seven that write A: `x` is A, `y` is register `r`, both read
before A is written; the result goes to A and all four flags to F. -/
def accumulate (out : AluOut) (s : State) : Host.Outcome State Fault Refusal :=
  .next ((s.setReg .a out.result).setFlags out.flags)

/-- ADD A,r (41_alu.md R100). -/
def addReg (r : Reg8) (s : State) : Host.Outcome State Fault Refusal := accumulate (aluAdd s.a (s.getReg r)) s
/-- ADC A,r (41_alu.md R101); reads F.C. -/
def adcReg (r : Reg8) (s : State) : Host.Outcome State Fault Refusal := accumulate (aluAdc s.a (s.getReg r) s.f.c) s
/-- SUB A,r (41_alu.md R102). -/
def subReg (r : Reg8) (s : State) : Host.Outcome State Fault Refusal := accumulate (aluSub s.a (s.getReg r)) s
/-- SBC A,r (41_alu.md R103); reads F.C. -/
def sbcReg (r : Reg8) (s : State) : Host.Outcome State Fault Refusal := accumulate (aluSbc s.a (s.getReg r) s.f.c) s
/-- AND A,r (41_alu.md R104). -/
def andReg (r : Reg8) (s : State) : Host.Outcome State Fault Refusal := accumulate (aluAnd s.a (s.getReg r)) s
/-- XOR A,r (41_alu.md R105). -/
def xorReg (r : Reg8) (s : State) : Host.Outcome State Fault Refusal := accumulate (aluXor s.a (s.getReg r)) s
/-- OR A,r (41_alu.md R106). -/
def orReg (r : Reg8) (s : State) : Host.Outcome State Fault Refusal := accumulate (aluOr s.a (s.getReg r)) s
/-- CP A,r (41_alu.md R107): only the flags; A is not written. -/
def cpReg (r : Reg8) (s : State) : Host.Outcome State Fault Refusal := .next (s.setFlags (aluCp s.a (s.getReg r)))

/-- ADD A,B, opcode 0x80 (R100). -/
def execAddAB (s : State) : Host.Outcome State Fault Refusal := addReg .b s
/-- ADD A,C, opcode 0x81 (R100). -/
def execAddAC (s : State) : Host.Outcome State Fault Refusal := addReg .c s
/-- ADD A,D, opcode 0x82 (R100). -/
def execAddAD (s : State) : Host.Outcome State Fault Refusal := addReg .d s
/-- ADD A,E, opcode 0x83 (R100). -/
def execAddAE (s : State) : Host.Outcome State Fault Refusal := addReg .e s
/-- ADD A,H, opcode 0x84 (R100). -/
def execAddAH (s : State) : Host.Outcome State Fault Refusal := addReg .h s
/-- ADD A,L, opcode 0x85 (R100). -/
def execAddAL (s : State) : Host.Outcome State Fault Refusal := addReg .l s
/-- ADD A,A, opcode 0x87 (R100). -/
def execAddAA (s : State) : Host.Outcome State Fault Refusal := addReg .a s
/-- ADC A,B, opcode 0x88 (R101). -/
def execAdcAB (s : State) : Host.Outcome State Fault Refusal := adcReg .b s
/-- ADC A,C, opcode 0x89 (R101). -/
def execAdcAC (s : State) : Host.Outcome State Fault Refusal := adcReg .c s
/-- ADC A,D, opcode 0x8A (R101). -/
def execAdcAD (s : State) : Host.Outcome State Fault Refusal := adcReg .d s
/-- ADC A,E, opcode 0x8B (R101). -/
def execAdcAE (s : State) : Host.Outcome State Fault Refusal := adcReg .e s
/-- ADC A,H, opcode 0x8C (R101). -/
def execAdcAH (s : State) : Host.Outcome State Fault Refusal := adcReg .h s
/-- ADC A,L, opcode 0x8D (R101). -/
def execAdcAL (s : State) : Host.Outcome State Fault Refusal := adcReg .l s
/-- ADC A,A, opcode 0x8F (R101). -/
def execAdcAA (s : State) : Host.Outcome State Fault Refusal := adcReg .a s
/-- SUB A,B, opcode 0x90 (R102). -/
def execSubAB (s : State) : Host.Outcome State Fault Refusal := subReg .b s
/-- SUB A,C, opcode 0x91 (R102). -/
def execSubAC (s : State) : Host.Outcome State Fault Refusal := subReg .c s
/-- SUB A,D, opcode 0x92 (R102). -/
def execSubAD (s : State) : Host.Outcome State Fault Refusal := subReg .d s
/-- SUB A,E, opcode 0x93 (R102). -/
def execSubAE (s : State) : Host.Outcome State Fault Refusal := subReg .e s
/-- SUB A,H, opcode 0x94 (R102). -/
def execSubAH (s : State) : Host.Outcome State Fault Refusal := subReg .h s
/-- SUB A,L, opcode 0x95 (R102). -/
def execSubAL (s : State) : Host.Outcome State Fault Refusal := subReg .l s
/-- SUB A,A, opcode 0x97 (R102). -/
def execSubAA (s : State) : Host.Outcome State Fault Refusal := subReg .a s
/-- SBC A,B, opcode 0x98 (R103). -/
def execSbcAB (s : State) : Host.Outcome State Fault Refusal := sbcReg .b s
/-- SBC A,C, opcode 0x99 (R103). -/
def execSbcAC (s : State) : Host.Outcome State Fault Refusal := sbcReg .c s
/-- SBC A,D, opcode 0x9A (R103). -/
def execSbcAD (s : State) : Host.Outcome State Fault Refusal := sbcReg .d s
/-- SBC A,E, opcode 0x9B (R103). -/
def execSbcAE (s : State) : Host.Outcome State Fault Refusal := sbcReg .e s
/-- SBC A,H, opcode 0x9C (R103). -/
def execSbcAH (s : State) : Host.Outcome State Fault Refusal := sbcReg .h s
/-- SBC A,L, opcode 0x9D (R103). -/
def execSbcAL (s : State) : Host.Outcome State Fault Refusal := sbcReg .l s
/-- SBC A,A, opcode 0x9F (R103). -/
def execSbcAA (s : State) : Host.Outcome State Fault Refusal := sbcReg .a s
/-- AND A,B, opcode 0xA0 (R104). -/
def execAndAB (s : State) : Host.Outcome State Fault Refusal := andReg .b s
/-- AND A,C, opcode 0xA1 (R104). -/
def execAndAC (s : State) : Host.Outcome State Fault Refusal := andReg .c s
/-- AND A,D, opcode 0xA2 (R104). -/
def execAndAD (s : State) : Host.Outcome State Fault Refusal := andReg .d s
/-- AND A,E, opcode 0xA3 (R104). -/
def execAndAE (s : State) : Host.Outcome State Fault Refusal := andReg .e s
/-- AND A,H, opcode 0xA4 (R104). -/
def execAndAH (s : State) : Host.Outcome State Fault Refusal := andReg .h s
/-- AND A,L, opcode 0xA5 (R104). -/
def execAndAL (s : State) : Host.Outcome State Fault Refusal := andReg .l s
/-- AND A,A, opcode 0xA7 (R104). -/
def execAndAA (s : State) : Host.Outcome State Fault Refusal := andReg .a s
/-- XOR A,B, opcode 0xA8 (R105). -/
def execXorAB (s : State) : Host.Outcome State Fault Refusal := xorReg .b s
/-- XOR A,C, opcode 0xA9 (R105). -/
def execXorAC (s : State) : Host.Outcome State Fault Refusal := xorReg .c s
/-- XOR A,D, opcode 0xAA (R105). -/
def execXorAD (s : State) : Host.Outcome State Fault Refusal := xorReg .d s
/-- XOR A,E, opcode 0xAB (R105). -/
def execXorAE (s : State) : Host.Outcome State Fault Refusal := xorReg .e s
/-- XOR A,H, opcode 0xAC (R105). -/
def execXorAH (s : State) : Host.Outcome State Fault Refusal := xorReg .h s
/-- XOR A,L, opcode 0xAD (R105). -/
def execXorAL (s : State) : Host.Outcome State Fault Refusal := xorReg .l s
/-- XOR A,A, opcode 0xAF (R105). -/
def execXorAA (s : State) : Host.Outcome State Fault Refusal := xorReg .a s
/-- OR A,B, opcode 0xB0 (R106). -/
def execOrAB (s : State) : Host.Outcome State Fault Refusal := orReg .b s
/-- OR A,C, opcode 0xB1 (R106). -/
def execOrAC (s : State) : Host.Outcome State Fault Refusal := orReg .c s
/-- OR A,D, opcode 0xB2 (R106). -/
def execOrAD (s : State) : Host.Outcome State Fault Refusal := orReg .d s
/-- OR A,E, opcode 0xB3 (R106). -/
def execOrAE (s : State) : Host.Outcome State Fault Refusal := orReg .e s
/-- OR A,H, opcode 0xB4 (R106). -/
def execOrAH (s : State) : Host.Outcome State Fault Refusal := orReg .h s
/-- OR A,L, opcode 0xB5 (R106). -/
def execOrAL (s : State) : Host.Outcome State Fault Refusal := orReg .l s
/-- OR A,A, opcode 0xB7 (R106). -/
def execOrAA (s : State) : Host.Outcome State Fault Refusal := orReg .a s
/-- CP A,B, opcode 0xB8 (R107). -/
def execCpAB (s : State) : Host.Outcome State Fault Refusal := cpReg .b s
/-- CP A,C, opcode 0xB9 (R107). -/
def execCpAC (s : State) : Host.Outcome State Fault Refusal := cpReg .c s
/-- CP A,D, opcode 0xBA (R107). -/
def execCpAD (s : State) : Host.Outcome State Fault Refusal := cpReg .d s
/-- CP A,E, opcode 0xBB (R107). -/
def execCpAE (s : State) : Host.Outcome State Fault Refusal := cpReg .e s
/-- CP A,H, opcode 0xBC (R107). -/
def execCpAH (s : State) : Host.Outcome State Fault Refusal := cpReg .h s
/-- CP A,L, opcode 0xBD (R107). -/
def execCpAL (s : State) : Host.Outcome State Fault Refusal := cpReg .l s
/-- CP A,A, opcode 0xBF (R107). -/
def execCpAA (s : State) : Host.Outcome State Fault Refusal := cpReg .a s

end Sys2Proof.Machine
end

