-- ==== Sys2Proof/Machine/Inc16.lean ====
section
/-! DEFINITION. Machine/Inc16.lean: INC rr (45_inc16.md R140 to R143), one meaning per opcode. -/

namespace Sys2Proof.Machine

/-- INC rr at dispatch: one entry carrying the pre-computed wrapped sum; the pair keeps its old value (45_inc16.md R140). -/
def incReg16 (p : Pair) (s : State) : Host.Outcome State Fault Refusal :=
  .next (s.enqueue [.writeReg16 p (inc16 (s.getPair p))])

/-- INC BC, opcode 0x03 (R141). -/
def execIncBc (s : State) : Host.Outcome State Fault Refusal := incReg16 .bc s
/-- INC DE, opcode 0x13 (R142). -/
def execIncDe (s : State) : Host.Outcome State Fault Refusal := incReg16 .de s
/-- INC HL, opcode 0x23 (R143). -/
def execIncHl (s : State) : Host.Outcome State Fault Refusal := incReg16 .hl s

end Sys2Proof.Machine
end

