-- ==== Sys2Proof/Machine/Inc8.lean ====
section
/-! DEFINITION. Machine/Inc8.lean: INC r (42_ld_inc8.md R111), one meaning per opcode. -/

namespace Sys2Proof.Machine

/-- INC r at dispatch: `x[r] <- (x[r] + 1) mod 256`; NO flag is written (42_ld_inc8.md R111; 90_conflicts.md C2). -/
def incReg8 (r : Reg8) (s : State) : Host.Outcome State Fault Refusal := .next (s.setReg r (inc8 (s.getReg r)))

/-- INC B, opcode 0x04 (R111). -/
def execIncB (s : State) : Host.Outcome State Fault Refusal := incReg8 .b s
/-- INC C, opcode 0x0C (R111). -/
def execIncC (s : State) : Host.Outcome State Fault Refusal := incReg8 .c s
/-- INC D, opcode 0x14 (R111). -/
def execIncD (s : State) : Host.Outcome State Fault Refusal := incReg8 .d s
/-- INC E, opcode 0x1C (R111). -/
def execIncE (s : State) : Host.Outcome State Fault Refusal := incReg8 .e s
/-- INC H, opcode 0x24 (R111). -/
def execIncH (s : State) : Host.Outcome State Fault Refusal := incReg8 .h s
/-- INC L, opcode 0x2C (R111). -/
def execIncL (s : State) : Host.Outcome State Fault Refusal := incReg8 .l s
/-- INC A, opcode 0x3C (R111). -/
def execIncA (s : State) : Host.Outcome State Fault Refusal := incReg8 .a s

end Sys2Proof.Machine
end

