-- ==== Sys2Proof/Machine/Load16.lean ====
section
/-! DEFINITION. Machine/Load16.lean: LD rr,d16 (43_ld16_imm.md R120 to R123), one meaning per opcode. -/

namespace Sys2Proof.Machine

/-- LD rr,d16 at dispatch: "two 'load immediate into register' entries, low byte first then high byte"
(43_ld16_imm.md R120). -/
def load16 (p : Pair) (s : State) : Host.Outcome State Fault Refusal :=
  .next (s.enqueue [.loadImm8 p.loReg, .loadImm8 p.hiReg])

/-- LD BC,d16, opcode 0x01 (R121). -/
def execLdBcD16 (s : State) : Host.Outcome State Fault Refusal := load16 .bc s
/-- LD DE,d16, opcode 0x11 (R122). -/
def execLdDeD16 (s : State) : Host.Outcome State Fault Refusal := load16 .de s
/-- LD HL,d16, opcode 0x21 (R123). -/
def execLdHlD16 (s : State) : Host.Outcome State Fault Refusal := load16 .hl s

end Sys2Proof.Machine
end

