-- ==== Sys2Proof/Machine/Load8.lean ====
section
/-! DEFINITION. Machine/Load8.lean: LD r,r' (42_ld_inc8.md R110), one meaning per opcode. -/

namespace Sys2Proof.Machine

/-- LD r,r' at dispatch: `x[r] <- x[r']`; no flag (42_ld_inc8.md R110). -/
def load8 (dst src : Reg8) (s : State) : Host.Outcome State Fault Refusal := .next (s.setReg dst (s.getReg src))

/-- LD B,B, opcode 0x40 (R110). -/
def execLdBB (s : State) : Host.Outcome State Fault Refusal := load8 .b .b s
/-- LD B,C, opcode 0x41 (R110). -/
def execLdBC (s : State) : Host.Outcome State Fault Refusal := load8 .b .c s
/-- LD B,D, opcode 0x42 (R110). -/
def execLdBD (s : State) : Host.Outcome State Fault Refusal := load8 .b .d s
/-- LD B,E, opcode 0x43 (R110). -/
def execLdBE (s : State) : Host.Outcome State Fault Refusal := load8 .b .e s
/-- LD B,H, opcode 0x44 (R110). -/
def execLdBH (s : State) : Host.Outcome State Fault Refusal := load8 .b .h s
/-- LD B,L, opcode 0x45 (R110). -/
def execLdBL (s : State) : Host.Outcome State Fault Refusal := load8 .b .l s
/-- LD B,A, opcode 0x47 (R110). -/
def execLdBA (s : State) : Host.Outcome State Fault Refusal := load8 .b .a s
/-- LD C,B, opcode 0x48 (R110). -/
def execLdCB (s : State) : Host.Outcome State Fault Refusal := load8 .c .b s
/-- LD C,C, opcode 0x49 (R110). -/
def execLdCC (s : State) : Host.Outcome State Fault Refusal := load8 .c .c s
/-- LD C,D, opcode 0x4A (R110). -/
def execLdCD (s : State) : Host.Outcome State Fault Refusal := load8 .c .d s
/-- LD C,E, opcode 0x4B (R110). -/
def execLdCE (s : State) : Host.Outcome State Fault Refusal := load8 .c .e s
/-- LD C,H, opcode 0x4C (R110). -/
def execLdCH (s : State) : Host.Outcome State Fault Refusal := load8 .c .h s
/-- LD C,L, opcode 0x4D (R110). -/
def execLdCL (s : State) : Host.Outcome State Fault Refusal := load8 .c .l s
/-- LD C,A, opcode 0x4F (R110). -/
def execLdCA (s : State) : Host.Outcome State Fault Refusal := load8 .c .a s
/-- LD D,B, opcode 0x50 (R110). -/
def execLdDB (s : State) : Host.Outcome State Fault Refusal := load8 .d .b s
/-- LD D,C, opcode 0x51 (R110). -/
def execLdDC (s : State) : Host.Outcome State Fault Refusal := load8 .d .c s
/-- LD D,D, opcode 0x52 (R110). -/
def execLdDD (s : State) : Host.Outcome State Fault Refusal := load8 .d .d s
/-- LD D,E, opcode 0x53 (R110). -/
def execLdDE (s : State) : Host.Outcome State Fault Refusal := load8 .d .e s
/-- LD D,H, opcode 0x54 (R110). -/
def execLdDH (s : State) : Host.Outcome State Fault Refusal := load8 .d .h s
/-- LD D,L, opcode 0x55 (R110). -/
def execLdDL (s : State) : Host.Outcome State Fault Refusal := load8 .d .l s
/-- LD D,A, opcode 0x57 (R110). -/
def execLdDA (s : State) : Host.Outcome State Fault Refusal := load8 .d .a s
/-- LD E,B, opcode 0x58 (R110). -/
def execLdEB (s : State) : Host.Outcome State Fault Refusal := load8 .e .b s
/-- LD E,C, opcode 0x59 (R110). -/
def execLdEC (s : State) : Host.Outcome State Fault Refusal := load8 .e .c s
/-- LD E,D, opcode 0x5A (R110). -/
def execLdED (s : State) : Host.Outcome State Fault Refusal := load8 .e .d s
/-- LD E,E, opcode 0x5B (R110). -/
def execLdEE (s : State) : Host.Outcome State Fault Refusal := load8 .e .e s
/-- LD E,H, opcode 0x5C (R110). -/
def execLdEH (s : State) : Host.Outcome State Fault Refusal := load8 .e .h s
/-- LD E,L, opcode 0x5D (R110). -/
def execLdEL (s : State) : Host.Outcome State Fault Refusal := load8 .e .l s
/-- LD E,A, opcode 0x5F (R110). -/
def execLdEA (s : State) : Host.Outcome State Fault Refusal := load8 .e .a s
/-- LD H,B, opcode 0x60 (R110). -/
def execLdHB (s : State) : Host.Outcome State Fault Refusal := load8 .h .b s
/-- LD H,C, opcode 0x61 (R110). -/
def execLdHC (s : State) : Host.Outcome State Fault Refusal := load8 .h .c s
/-- LD H,D, opcode 0x62 (R110). -/
def execLdHD (s : State) : Host.Outcome State Fault Refusal := load8 .h .d s
/-- LD H,E, opcode 0x63 (R110). -/
def execLdHE (s : State) : Host.Outcome State Fault Refusal := load8 .h .e s
/-- LD H,H, opcode 0x64 (R110). -/
def execLdHH (s : State) : Host.Outcome State Fault Refusal := load8 .h .h s
/-- LD H,L, opcode 0x65 (R110). -/
def execLdHL (s : State) : Host.Outcome State Fault Refusal := load8 .h .l s
/-- LD H,A, opcode 0x67 (R110). -/
def execLdHA (s : State) : Host.Outcome State Fault Refusal := load8 .h .a s
/-- LD L,B, opcode 0x68 (R110). -/
def execLdLB (s : State) : Host.Outcome State Fault Refusal := load8 .l .b s
/-- LD L,C, opcode 0x69 (R110). -/
def execLdLC (s : State) : Host.Outcome State Fault Refusal := load8 .l .c s
/-- LD L,D, opcode 0x6A (R110). -/
def execLdLD (s : State) : Host.Outcome State Fault Refusal := load8 .l .d s
/-- LD L,E, opcode 0x6B (R110). -/
def execLdLE (s : State) : Host.Outcome State Fault Refusal := load8 .l .e s
/-- LD L,H, opcode 0x6C (R110). -/
def execLdLH (s : State) : Host.Outcome State Fault Refusal := load8 .l .h s
/-- LD L,L, opcode 0x6D (R110). -/
def execLdLL (s : State) : Host.Outcome State Fault Refusal := load8 .l .l s
/-- LD L,A, opcode 0x6F (R110). -/
def execLdLA (s : State) : Host.Outcome State Fault Refusal := load8 .l .a s
/-- LD A,B, opcode 0x78 (R110). -/
def execLdAB (s : State) : Host.Outcome State Fault Refusal := load8 .a .b s
/-- LD A,C, opcode 0x79 (R110). -/
def execLdAC (s : State) : Host.Outcome State Fault Refusal := load8 .a .c s
/-- LD A,D, opcode 0x7A (R110). -/
def execLdAD (s : State) : Host.Outcome State Fault Refusal := load8 .a .d s
/-- LD A,E, opcode 0x7B (R110). -/
def execLdAE (s : State) : Host.Outcome State Fault Refusal := load8 .a .e s
/-- LD A,H, opcode 0x7C (R110). -/
def execLdAH (s : State) : Host.Outcome State Fault Refusal := load8 .a .h s
/-- LD A,L, opcode 0x7D (R110). -/
def execLdAL (s : State) : Host.Outcome State Fault Refusal := load8 .a .l s
/-- LD A,A, opcode 0x7F (R110). -/
def execLdAA (s : State) : Host.Outcome State Fault Refusal := load8 .a .a s

end Sys2Proof.Machine
end

