-- ==== Sys2Proof/Machine/Store.lean ====
section
/-! DEFINITION. Machine/Store.lean: the stores of A through a pair (44_stores.md R130 to R135), one meaning per opcode. -/

namespace Sys2Proof.Machine

/-- A store at dispatch: the address and A are captured in one entry, and only then is the pair modified
(44_stores.md R130, R135). -/
def storeA (m : StoreMode) (s : State) : Host.Outcome State Fault Refusal :=
  .next (postModify m (s.enqueue [.storeMem (storeAddr m s) s.a]))

/-- LD (BC),A, opcode 0x02 (R131). -/
def execLdMemBcA (s : State) : Host.Outcome State Fault Refusal := storeA .bc s
/-- LD (DE),A, opcode 0x12 (R132). -/
def execLdMemDeA (s : State) : Host.Outcome State Fault Refusal := storeA .de s
/-- LD (HL+),A, opcode 0x22 (R133). -/
def execLdMemHlIncA (s : State) : Host.Outcome State Fault Refusal := storeA .hlInc s
/-- LD (HL-),A, opcode 0x32 (R134). -/
def execLdMemHlDecA (s : State) : Host.Outcome State Fault Refusal := storeA .hlDec s

end Sys2Proof.Machine
end

