-- ==== Sys2Proof/Machine/Engine.lean ====
section
/-! DEFINITION. Machine/Engine.lean: the execution engine (40_execution_engine.md): micro-ops, the Draining and the Idle
step, the one step, the access a step makes, and laying an instruction where the next step fetches. -/

namespace Sys2Proof.Machine

/-! ## The micro-ops -/

/-- `execute_microop(e)` (40_execution_engine.md R74, R75, R76). -/
def execMicroOp (e : MicroOp) (s : State) : Except FaultRecord State :=
  match e with
  | .loadImm8 r =>
    match memRead s.pc s with
    | .ok v => .ok (s.setReg r v)
    | .error f => .error f
  | .storeMem a v => memWrite a v s
  | .writeReg16 p v => .ok (s.setPair p v)

/-! ## The step -/

/-- A Draining step with `e` at the front of Q (R73): execute it, remove it, advance PC. A rejected access leaves everything
as it was, the entry at the front (60_exceptions.md R157). -/
def drainStep (e : MicroOp) (s : State) : Host.Outcome State Fault Refusal :=
  match execMicroOp e s with
  | .ok t => .next t.popQueue.advancePc
  | .error f => stop f s

/-- `dispatch(op, a)` (R77): the action of the opcode, or DecodeFault with the address the byte was fetched from. -/
def dispatch (op : Byte) (a : Addr) (s : State) : Host.Outcome State Fault Refusal :=
  match decodeOpcode op with
  | some i => exec i s
  | none => stop (.decodeFault op a) s

/-- An Idle step (R72): read the opcode at PC, advance PC, dispatch. -/
def idleStep (s : State) : Host.Outcome State Fault Refusal :=
  match memRead s.pc s with
  | .ok op => dispatch op s.pc s.advancePc
  | .error f => stop f s

/-- `step()` (R70). Once FAULT is set: no access, no change, the same failure again (R71). -/
def oneStep (s : State) : Host.Outcome State Fault Refusal :=
  match s.fault with
  | some r => .fault (r.report s)
  | none =>
    match s.queue with
    | e :: _ => drainStep e s
    | [] => idleStep s

/-! ## The byte-store access of a step (20_memory.md R37) -/

/-- One byte-store transaction (00_scope.md R7): its direction and address, and the byte written by a write. -/
inductive Access where
  | readByte (a : Addr)
  | writeByte (a : Addr) (v : Byte)
  deriving DecidableEq, Repr

/-- The address of an access. -/
def Access.addr : Access → Addr
  | .readByte a => a
  | .writeByte a _ => a

/-- The transaction a step asks for, by the table of 20_memory.md R37: at most one. It is performed when the byte store
accepts its address (R32). -/
def State.accessOf (s : State) : Option Access :=
  match s.fault, s.queue with
  | some _, _ => none
  | none, [] => some (.readByte s.pc)
  | none, .loadImm8 _ :: _ => some (.readByte s.pc)
  | none, .storeMem a v :: _ => some (.writeByte a v)
  | none, .writeReg16 _ _ :: _ => none

/-! ## Laying an instruction where the next step fetches (log 8) -/

/-- One byte laid at an address, which the byte store then accepts. -/
def State.layByte (s : State) (a : Addr) (v : Byte) : State :=
  { s.setByte a v with rejected := acceptAddr a.toNat s.rejected }

/-- Bytes laid at ascending addresses from `a`, modulo 65536. -/
def layBytes : Addr → List Byte → State → State
  | _, [], s => s
  | a, v :: vs, s => layBytes (inc16 a) vs (s.layByte a v)

/-- The state whose next step fetches the instruction of the table word: its bytes at PC, the core at an instruction
boundary (Q empty) and without a fault (log 8). -/
def placeWord (s : State) (nbits w : Nat) : State :=
  { layBytes s.pc (bytesOfTableWord nbits w) s with queue := [], fault := none }

end Sys2Proof.Machine
end

