-- ==== Sys2Proof/Machine/Step.lean ====
section
/-! DEFINITION. Machine/Step.lean: the step of the machine and the host's way to place an instruction. -/

namespace Sys2Proof.Machine

/-- One bus cycle of work (40_execution_engine.md R70): `.next` is Ok, `.fault` is Err (log 4). -/
def step (s : State) : Host.Outcome State Fault Refusal := oneStep s

/-- The instruction whose bits are `w` stored where `step` fetches its next opcode (log 8). -/
def State.withFetchWord (s : State) (nbits w : Nat) : State := placeWord s nbits w

end Sys2Proof.Machine
end

