-- ==== Sys2Proof/Safety.lean ====
section
/-! DEFINITION. Safety.lean: the terms in which claims speak of runs: runs of steps, runs with an environment, instruction
boundaries, the invariant of the machine, and what an instruction does as a whole. -/

namespace Sys2Proof.Machine

/-! ## Runs -/

/-- `k` steps, ending at the first fault or refusal. -/
def steps : Nat → State → Host.Outcome State Fault Refusal
  | 0, s => .next s
  | k + 1, s =>
    match step s with
    | .next t => steps k t
    | .fault f => .fault f
    | .refused r => .refused r

/-- The state after one invocation of `step()`, whatever it returns (40_execution_engine.md R70). -/
def State.afterStep (s : State) : State :=
  match step s with
  | .next t => t
  | .fault f => f.left
  | .refused _ => s

/-- What can happen to the machine: the host invokes `step()`, or the environment changes one byte of the byte store between
two steps (20_memory.md R42; log 10). -/
inductive Event where
  | hostStep
  | envWrite (a : Addr) (v : Byte)
  deriving DecidableEq, Repr

/-- The state after an event. -/
def Event.apply (s : State) : Event → State
  | .hostStep => s.afterStep
  | .envWrite a v => s.setByte a v

/-- The state after a sequence of events. -/
def runEvents (es : List Event) (s : State) : State := es.foldl Event.apply s

/-! ## Instruction boundaries -/

/-- A step boundary at which Q is empty (10_state.md R24), the core not stopped. -/
def State.AtBoundary (s : State) : Prop := s.queue = [] ∧ s.fault = none

/-! ## The invariant -/

/-- A latched fault is the record of a fatal condition that the state still shows: an unmapped byte fetched at the address
before PC, at an instruction boundary; or a rejected access of the step that would be next (60_exceptions.md R151, R152,
R157). -/
def State.FaultConsistent (s : State) : Prop :=
  match s.fault with
  | none => True
  | some (.decodeFault op a) => decodeOpcode op = none ∧ s.pc = inc16 a ∧ s.queue = []
  | some (.busFault a .read) =>
    s.accepts a = false ∧ s.pc = a ∧ (s.queue = [] ∨ ∃ r es, s.queue = .loadImm8 r :: es)
  | some (.busFault a .write) => s.accepts a = false ∧ ∃ v es, s.queue = .storeMem a v :: es

/-- The memory is in canonical form, Q holds one of the contents of 10_state.md R23, and a latched fault is consistent. -/
structure State.Inv (s : State) : Prop where
  mem   : s.mem.wf = true
  queue : queueWellFormed s.queue = true
  fault : s.FaultConsistent

/-! ## What an instruction does as a whole -/

/-- The classes of 30_encoding.md R57, with their operands. -/
inductive InstrClass where
  | ld (dst src : Reg8)
  | inc8 (r : Reg8)
  | alu (op : AluOp) (r : Reg8)
  | ld16 (p : Pair)
  | store (m : StoreMode)
  | inc16 (p : Pair)
  deriving DecidableEq, Repr

/-- The instruction of a class with given operands. -/
def InstrClass.instr : InstrClass → Instr
  | .ld dst src => ldInstr dst src
  | .inc8 r => inc8Instr r
  | .alu op r => aluInstr op r
  | .ld16 p => ld16Instr p
  | .store m => storeInstr m
  | .inc16 p => inc16Instr p

/-- Steps an instruction takes, and bytes it occupies (40_execution_engine.md R80; 30_encoding.md R51). -/
def InstrClass.steps : InstrClass → Nat
  | .ld _ _ => 1
  | .inc8 _ => 1
  | .alu _ _ => 1
  | .ld16 _ => 3
  | .store _ => 2
  | .inc16 _ => 2

/-- The addresses an instruction accesses when started at a boundary (20_memory.md R37). -/
def InstrClass.accessed (k : InstrClass) (s : State) : List Addr :=
  match k with
  | .ld _ _ => [s.pc]
  | .inc8 _ => [s.pc]
  | .alu _ _ => [s.pc]
  | .ld16 _ => [s.pc, s.pc + 1, s.pc + 2]
  | .store m => [s.pc, storeAddr m s]
  | .inc16 _ => [s.pc]

/-- A and F after an ALU instruction with second operand `y` (41_alu.md R99). -/
def aluEffect (op : AluOp) (y : Byte) (s : State) : State :=
  match op with
  | .add => { s with a := (aluAdd s.a y).result, f := (aluAdd s.a y).flags }
  | .adc => { s with a := (aluAdc s.a y s.f.c).result, f := (aluAdc s.a y s.f.c).flags }
  | .sub => { s with a := (aluSub s.a y).result, f := (aluSub s.a y).flags }
  | .sbc => { s with a := (aluSbc s.a y s.f.c).result, f := (aluSbc s.a y s.f.c).flags }
  | .and => { s with a := (aluAnd s.a y).result, f := (aluAnd s.a y).flags }
  | .xor => { s with a := (aluXor s.a y).result, f := (aluXor s.a y).flags }
  | .or => { s with a := (aluOr s.a y).result, f := (aluOr s.a y).flags }
  | .cp => { s with f := (aluSub s.a y).flags }

/-- The effect of a whole instruction, from one boundary to the next, as if it happened at once: no queue, no micro-op
(40_execution_engine.md R80; 43_ld16_imm.md R120; 44_stores.md R130; 45_inc16.md R140). -/
def InstrClass.wholeEffect (k : InstrClass) (s : State) : State :=
  match k with
  | .ld dst src => { s.setReg dst (s.getReg src) with pc := s.pc + 1 }
  | .inc8 r => { s.setReg r (s.getReg r + 1) with pc := s.pc + 1 }
  | .alu op r => { aluEffect op (s.getReg r) s with pc := s.pc + 1 }
  | .ld16 p => { s.setPair p (s.byteAt (s.pc + 2) ++ s.byteAt (s.pc + 1)) with pc := s.pc + 3 }
  | .store .bc => { s.setByte (s.getPair .bc) s.a with pc := s.pc + 2 }
  | .store .de => { s.setByte (s.getPair .de) s.a with pc := s.pc + 2 }
  | .store .hlInc => { (s.setByte (s.getPair .hl) s.a).setPair .hl (s.getPair .hl + 1) with pc := s.pc + 2 }
  | .store .hlDec => { (s.setByte (s.getPair .hl) s.a).setPair .hl (s.getPair .hl - 1) with pc := s.pc + 2 }
  | .inc16 p => { s.setPair p (s.getPair p + 1) with pc := s.pc + 2 }

end Sys2Proof.Machine
end

