-- ==== Sys2Proof/Certificates/Slice0/Obligations.lean ====
section
/-! DEFINITION. Certificates/Slice0/Obligations.lean: the statements, and the words they share. -/

namespace Sys2Proof.Machine

/-! ## Words the statements share -/

/-- Every general register but those named is unchanged. -/
def RegsBut (ds : List Reg8) (s t : State) : Prop := ∀ r, r ∉ ds → t.getReg r = s.getReg r

/-- Every byte of the byte store reads as before. -/
def SameBytes (s t : State) : Prop := ∀ a : Addr, t.byteAt a = s.byteAt a

/-- What no dispatch action touches: PC, SP, FAULT, the set of accepted addresses, every byte. -/
def DispatchFrame (s t : State) : Prop :=
  t.pc = s.pc ∧ t.sp = s.sp ∧ t.fault = s.fault ∧ t.rejected = s.rejected ∧ SameBytes s t

/-- The four flags, each set exactly when a condition holds. -/
def FlagsAre (f : Flags) (zero sub half carry : Prop) : Prop :=
  (f.z = true ↔ zero) ∧ (f.n = true ↔ sub) ∧ (f.h = true ↔ half) ∧ (f.c = true ↔ carry)

/-- The state of the core without the contents of the byte store. -/
def State.coreOf (s : State) : State := { s with mem := [] }

/-- Two outcomes that agree in everything but the contents of the byte store. -/
def SameButStore : Host.Outcome State Fault Refusal → Host.Outcome State Fault Refusal → Prop
  | .next t, .next u => t.coreOf = u.coreOf
  | .fault f, .fault g => f.record = g.record ∧ f.left.coreOf = g.left.coreOf
  | .refused r, .refused q => r = q
  | _, _ => False

/-- The change of the pair that a store makes, as a 16-bit number to add (44_stores.md R130): 0, 0, +1, -1. -/
def storeDelta : StoreMode → Addr
  | .bc => 0
  | .de => 0
  | .hlInc => 1
  | .hlDec => -1

/-- What an ALU operation gives A and F (41_alu.md R99): cp gives A its old value. -/
def aluOutput (op : AluOp) (x y : Byte) (cin : Bool) : AluOut :=
  match op with
  | .add => aluAdd x y
  | .adc => aluAdc x y cin
  | .sub => aluSub x y
  | .sbc => aluSbc x y cin
  | .and => aluAnd x y
  | .xor => aluXor x y
  | .or => aluOr x y
  | .cp => ⟨x, (aluSub x y).flags⟩

/-- An ALU instruction (41_alu.md R99). -/
def IsAlu (i : Instr) : Prop := ∃ op r, i = aluInstr op r

end Sys2Proof.Machine

open Sys2Proof Sys2Proof.Machine

/-! ## Encoding -/

/-- Decode and encode agree on every well-formed instruction as it lies in memory, whatever its trailing bytes and whatever
follows it (30_encoding.md R51, R57; the opcode values are the spec's decision D1; the form `Laid` is log 9). -/
def Obligations.DecodeEncodeReturnsLaidInstruction : Prop :=
  ∀ (x : Laid) (rest : List Byte), x.wellFormed = true → decode (encode x ++ rest) = .ok (x, rest)

/-- A whole sequence of instructions, laid out one after another, is read back as that sequence (30_encoding.md R51, R60;
decision D1; log 9). -/
def Obligations.DisassembleAssembleReturnsSequence : Prop :=
  ∀ (xs : List Laid), (∀ x ∈ xs, x.wellFormed = true) → disassemble (assemble xs).length (assemble xs) = some xs

/-- Where the decoder reads a list of bytes as an instruction, the instruction is well formed and its bytes, followed by the
rest, are that list: no bit of the bytes is dropped and no other bytes read as the same (30_encoding.md R51, R57; D1). -/
def Obligations.DecodedBytesAreReencoded : Prop :=
  ∀ (bs rest : List Byte) (x : Laid), decode bs = .ok (x, rest) → x.wellFormed = true ∧ encode x ++ rest = bs

/-- Each opcode byte means one instruction and each instruction has one opcode byte (30_encoding.md R57; D1, D2). -/
def Obligations.OpcodeByteMeansOneInstruction : Prop :=
  ∀ (b : Byte) (i : Instr), decodeOpcode b = some i ↔ opcodeOf i = b

/-- The unmapped bytes are exactly the 134 listed (30_encoding.md, section 5; the set is decision D2). -/
def Obligations.UnmappedBytesAreThoseListed : Prop :=
  ∀ b : Byte, decodeOpcode b = none ↔
    b.toNat = 0x00 ∨ (0x05 ≤ b.toNat ∧ b.toNat ≤ 0x0B) ∨ (0x0D ≤ b.toNat ∧ b.toNat ≤ 0x10) ∨
    (0x15 ≤ b.toNat ∧ b.toNat ≤ 0x1B) ∨ (0x1D ≤ b.toNat ∧ b.toNat ≤ 0x20) ∨ (0x25 ≤ b.toNat ∧ b.toNat ≤ 0x2B) ∨
    (0x2D ≤ b.toNat ∧ b.toNat ≤ 0x31) ∨ (0x33 ≤ b.toNat ∧ b.toNat ≤ 0x3B) ∨ (0x3D ≤ b.toNat ∧ b.toNat ≤ 0x3F) ∨
    b.toNat = 0x46 ∨ b.toNat = 0x4E ∨ b.toNat = 0x56 ∨ b.toNat = 0x5E ∨ b.toNat = 0x66 ∨ b.toNat = 0x6E ∨
    (0x70 ≤ b.toNat ∧ b.toNat ≤ 0x77) ∨ b.toNat = 0x7E ∨ b.toNat = 0x86 ∨ b.toNat = 0x8E ∨ b.toNat = 0x96 ∨
    b.toNat = 0x9E ∨ b.toNat = 0xA6 ∨ b.toNat = 0xAE ∨ b.toNat = 0xB6 ∨ b.toNat = 0xBE ∨ 0xC0 ≤ b.toNat

/-- A few opcode bytes, written out bit by bit from the patterns of 30_encoding.md section 4 (D1). -/
def Obligations.SampleOpcodesDecode : Prop :=
  decodeOpcode 0b00010001 = some .ldDeD16 ∧ decodeOpcode 0b00110010 = some .ldMemHlDecA ∧
  decodeOpcode 0b00100011 = some .incHl ∧ decodeOpcode 0b00111100 = some .incA ∧
  decodeOpcode 0b01111000 = some .ldAB ∧ decodeOpcode 0b01000111 = some .ldBA ∧
  decodeOpcode 0b10101000 = some .xorAB ∧ decodeOpcode 0b10110100 = some .orAH ∧ decodeOpcode 0b11001011 = none

/-! ## Reset -/

/-- What construction leaves (10_state.md, section 10): PC 0x0100, SP 0xFFFE, registers and flags 0. That Q is empty and
FAULT is None is the spec's decision D14. The byte store is bound as it is; `State.reset` binds one that lists nothing and
rejects nothing (log 2, log 3). -/
def Obligations.ConstructionGivesResetState : Prop :=
  (∀ (m : Memory) (rj : List AddrRange),
    (∀ r, (State.construct m rj).getReg r = 0x00) ∧ (∀ p, (State.construct m rj).getPair p = 0x0000) ∧
    (∀ flag, (State.construct m rj).f.test flag = false) ∧ (State.construct m rj).pc = 0x0100 ∧
    (State.construct m rj).sp = 0xFFFE ∧ (State.construct m rj).queue = [] ∧ (State.construct m rj).fault = none ∧
    (State.construct m rj).mem = m ∧ (State.construct m rj).rejected = rj) ∧
  State.reset = State.construct [] []

/-- The first step after construction is an Idle step whose one access is the opcode read at 0x0100
(70_reset_and_hazards.md, section 1; D14). -/
def Obligations.FirstStepFetchesAtEntryPoint : Prop :=
  ∀ (m : Memory) (rj : List AddrRange),
    (State.construct m rj).accessOf = some (.readByte 0x0100) ∧
    ∀ i, (State.construct m rj).accepts 0x0100 = true → decodeOpcode (m.read 0x0100) = some i →
      step (State.construct m rj) = exec i (State.construct m rj).advancePc

/-- A core constructed on a canonical byte store meets the invariant (10_state.md, sections 7 and 10; the canonical form is
log 2). -/
def Obligations.ConstructionMeetsInvariant : Prop :=
  (∀ (m : Memory) (rj : List AddrRange), m.wf = true → (State.construct m rj).Inv) ∧ State.reset.Inv

/-! ## Registers, pairs, flags -/

/-- The pairs are views, high byte first; writing a pair writes both halves and nothing else (10_state.md R15). -/
def Obligations.PairsAreViewsHighByteFirst : Prop :=
  ∀ (s : State) (p : Pair) (v : Addr),
    (s.getPair p).toNat = 256 * (s.getReg p.hiReg).toNat + (s.getReg p.loReg).toNat ∧
    ((s.setPair p v).getReg p.hiReg).toNat = v.toNat / 256 ∧
    ((s.setPair p v).getReg p.loReg).toNat = v.toNat % 256 ∧
    (s.setPair p v).getPair p = v ∧
    RegsBut [p.hiReg, p.loReg] s (s.setPair p v) ∧ DispatchFrame s (s.setPair p v) ∧
    (s.setPair p v).f = s.f ∧ (s.setPair p v).queue = s.queue ∧
    (∀ x : Byte, ((s.setReg p.hiReg x).getPair p).toNat = 256 * x.toNat + (s.getReg p.loReg).toNat) ∧
    (∀ x : Byte, ((s.setReg p.loReg x).getPair p).toNat = 256 * (s.getReg p.hiReg).toNat + x.toNat)

/-- Each 8-bit register is read and written individually (10_state.md, section 1). -/
def Obligations.RegistersAreIndependent : Prop :=
  ∀ (s : State) (r : Reg8) (v : Byte),
    (s.setReg r v).getReg r = v ∧ RegsBut [r] s (s.setReg r v) ∧ DispatchFrame s (s.setReg r v) ∧
    (s.setReg r v).f = s.f ∧ (s.setReg r v).queue = s.queue

/-- The register-file arithmetic wraps (10_state.md, section 6). -/
def Obligations.RegisterArithmeticWraps : Prop :=
  ∀ (v : Addr) (b : Byte),
    (inc16 v).toNat = (v.toNat + 1) % 65536 ∧ (dec16 v).toNat = (v.toNat + 65535) % 65536 ∧
    (inc8 b).toNat = (b.toNat + 1) % 256

/-- The Flag Set primitives (10_state.md R13). -/
def Obligations.FlagSetPrimitives : Prop :=
  ∀ (f : Flags) (name other : FlagName) (v : Bool),
    f.clear.test name = false ∧ (f.set name v).test name = v ∧ (other ≠ name → (f.set name v).test other = f.test other) ∧
    ∀ zero sub half carry : Bool, flagsOf zero sub half carry =
      (((f.clear.set .z zero).set .n sub).set .h half).set .c carry

/-- The byte view of F: Z, N, H, C at bits 7 to 4, bits 3 to 0 read 0 and ignore writes (10_state.md, section 2; the layout
is decision D4, log 6). -/
def Obligations.FlagByteView : Prop :=
  ∀ (f : Flags) (v : Byte),
    f.toByte.toNat = 128 * f.z.toNat + 64 * f.n.toNat + 32 * f.h.toNat + 16 * f.c.toNat ∧
    Flags.ofByte f.toByte = f ∧ (Flags.ofByte v).toByte = v &&& 0xF0

/-! ## The ALU functions -/

/-- add (41_alu.md R91). -/
def Obligations.AluAddFormula : Prop :=
  ∀ x y : Byte,
    (aluAdd x y).result.toNat = (x.toNat + y.toNat) % 256 ∧
    FlagsAre (aluAdd x y).flags ((x.toNat + y.toNat) % 256 = 0) False (x.toNat % 16 + y.toNat % 16 > 15)
      (x.toNat + y.toNat > 255)

/-- adc (41_alu.md R92): one three-term sum in the result, the half carry and the carry; with no carry-in it is add. -/
def Obligations.AluAdcFormula : Prop :=
  ∀ (x y : Byte) (cin : Bool),
    (aluAdc x y cin).result.toNat = (x.toNat + y.toNat + cin.toNat) % 256 ∧
    FlagsAre (aluAdc x y cin).flags ((x.toNat + y.toNat + cin.toNat) % 256 = 0) False
      (x.toNat % 16 + y.toNat % 16 + cin.toNat > 15) (x.toNat + y.toNat + cin.toNat > 255) ∧
    aluAdc x y false = aluAdd x y

/-- sub, and cp, which has exactly sub's flags (41_alu.md R93, R98). -/
def Obligations.AluSubAndCpFormula : Prop :=
  ∀ x y : Byte,
    ((aluSub x y).result.toNat : Int) = ((x.toNat : Int) - y.toNat) % 256 ∧
    FlagsAre (aluSub x y).flags (x = y) True (x.toNat % 16 < y.toNat % 16) (x.toNat < y.toNat) ∧
    aluCp x y = (aluSub x y).flags

/-- sbc, with the source's own half-carry and carry formulas, and what the carry formula comes to: with t = y + carry_in it
is set exactly when x < t, or t = 256, or t = 0 (41_alu.md R94; 90_conflicts.md C3). -/
def Obligations.AluSbcFormula : Prop :=
  ∀ (x y : Byte) (cin : Bool),
    ((aluSbc x y cin).result.toNat : Int) = ((x.toNat : Int) - y.toNat - cin.toNat) % 256 ∧
    FlagsAre (aluSbc x y cin).flags (((x.toNat : Int) - y.toNat - cin.toNat) % 256 = 0) True
      (((x.toNat % 16 : Nat) : Int) < (((y.toNat : Int) - cin.toNat) % 256) % 16)
      ((aluSbc x y cin).result.toNat ≥ x.toNat) ∧
    ((aluSbc x y cin).flags.c = true ↔
      x.toNat < y.toNat + cin.toNat ∨ y.toNat + cin.toNat = 256 ∨ y.toNat + cin.toNat = 0)

/-- and, or, xor: and always sets Half-Carry, or and xor never (41_alu.md R95, R96, R97). -/
def Obligations.AluLogicFormula : Prop :=
  ∀ x y : Byte,
    (∀ k, (aluAnd x y).result.getLsbD k = (x.getLsbD k && y.getLsbD k)) ∧
    (∀ k, (aluOr x y).result.getLsbD k = (x.getLsbD k || y.getLsbD k)) ∧
    (∀ k, (aluXor x y).result.getLsbD k = (x.getLsbD k ^^ y.getLsbD k)) ∧
    FlagsAre (aluAnd x y).flags ((aluAnd x y).result.toNat = 0) False True False ∧
    FlagsAre (aluOr x y).flags ((aluOr x y).result.toNat = 0) False False False ∧
    FlagsAre (aluXor x y).flags ((aluXor x y).result.toNat = 0) False False False

/-- With no carry-in, sbc gives sub's result, Z, N and H; its C is sub's except for a zero subtrahend, where sbc sets it and
sub clears it (95_test_vectors.md, section 2.4; 70_reset_and_hazards.md, section 4). -/
def Obligations.SbcWithoutCarryDiffersFromSubOnlyAtZero : Prop :=
  ∀ x y : Byte,
    (aluSbc x y false).result = (aluSub x y).result ∧ (aluSbc x y false).flags.z = (aluSub x y).flags.z ∧
    (aluSbc x y false).flags.n = (aluSub x y).flags.n ∧ (aluSbc x y false).flags.h = (aluSub x y).flags.h ∧
    (y ≠ 0 → (aluSbc x y false).flags.c = (aluSub x y).flags.c) ∧
    (y = 0 → (aluSbc x y false).flags.c = true ∧ (aluSub x y).flags.c = false)

/-! ## What each instruction does at dispatch

`exec` acts on the state whose PC the Idle step has already advanced (log 7). These statements are, for their constructors,
the statements of completion: each says that exec answers a next state, for every state and every operand. -/

/-- ADD, ADC, SUB, SBC, AND, XOR, OR, CP A,r for r in B C D E H L A (56 constructors `<op>A<r>`): A becomes the result of
the ALU function on A and r, both read before A is written, with F.C as carry-in for ADC and SBC (CP keeps A), and F all four
of its flags; nothing else changes (41_alu.md, part 2; that A is first operand and destination is the spec's decision D6). -/
def Obligations.AluInstructionsWriteAccumulatorAndFlags : Prop :=
  ∀ (op : AluOp) (r : Reg8) (s : State), ∃ t, exec (aluInstr op r) s = .next t ∧
    t.getReg .a = (aluOutput op s.a (s.getReg r) s.f.c).result ∧ t.f = (aluOutput op s.a (s.getReg r) s.f.c).flags ∧
    RegsBut [.a] s t ∧ t.queue = s.queue ∧ DispatchFrame s t

/-- LD r,r' (49 constructors `ld<r><r'>`): the destination gets the source's old value; no flag, no other register, no byte
changes (42_ld_inc8.md, LD r,r'; which field is which is decision D1). -/
def Obligations.LoadRegisterCopiesSource : Prop :=
  ∀ (dst src : Reg8) (s : State), ∃ t, exec (ldInstr dst src) s = .next t ∧
    t.getReg dst = s.getReg src ∧ RegsBut [dst] s t ∧ t.f = s.f ∧ t.queue = s.queue ∧ DispatchFrame s t

/-- INC r (7 constructors `incB` … `incA`): the register plus one modulo 256; NO flag changes, not even on a wrap; nothing
else changes (42_ld_inc8.md, INC r; the opcode values are decision D1). -/
def Obligations.IncrementRegisterWritesNoFlag : Prop :=
  ∀ (r : Reg8) (s : State), ∃ t, exec (inc8Instr r) s = .next t ∧
    (t.getReg r).toNat = ((s.getReg r).toNat + 1) % 256 ∧ RegsBut [r] s t ∧ t.f = s.f ∧ t.queue = s.queue ∧ DispatchFrame s t

/-- LD rr,d16 (3 constructors `ldBcD16`, `ldDeD16`, `ldHlD16`) at dispatch: two entries appended, low register first;
nothing else changes (43_ld16_imm.md, section of the common behaviour; 40_execution_engine.md, section 3). -/
def Obligations.LoadPairEnqueuesLowThenHigh : Prop :=
  ∀ (p : Pair) (s : State), ∃ t, exec (ld16Instr p) s = .next t ∧
    t.queue = s.queue ++ [.loadImm8 p.loReg, .loadImm8 p.hiReg] ∧ RegsBut [] s t ∧ t.f = s.f ∧ DispatchFrame s t

/-- LD (BC),A; LD (DE),A; LD (HL+),A; LD (HL-),A (4 constructors `ldMemBcA`, `ldMemDeA`, `ldMemHlIncA`, `ldMemHlDecA`) at
dispatch: one entry with the address the pair held and A; then the pair becomes address + m modulo 65536, m being 0, 0, +1,
-1; no byte is written yet and nothing else changes (44_stores.md; 40_execution_engine.md, section 3). -/
def Obligations.StoreCapturesThenModifiesPair : Prop :=
  ∀ (m : StoreMode) (s : State), ∃ t, exec (storeInstr m) s = .next t ∧
    t.queue = s.queue ++ [.storeMem (s.getPair (storePair m)) (s.getReg .a)] ∧
    t.getPair (storePair m) = s.getPair (storePair m) + storeDelta m ∧
    RegsBut [(storePair m).hiReg, (storePair m).loReg] s t ∧ t.f = s.f ∧ DispatchFrame s t

/-- INC rr (3 constructors `incBc`, `incDe`, `incHl`) at dispatch: one entry carrying the sum modulo 65536; the pair and
everything else keep their values (45_inc16.md; 40_execution_engine.md, section 3). -/
def Obligations.IncrementPairEnqueuesSum : Prop :=
  ∀ (p : Pair) (s : State), ∃ t v, exec (inc16Instr p) s = .next t ∧
    v.toNat = ((s.getPair p).toNat + 1) % 65536 ∧ t.queue = s.queue ++ [.writeReg16 p v] ∧
    RegsBut [] s t ∧ t.f = s.f ∧ DispatchFrame s t

/-- Every instruction (all 122 constructors) completes at dispatch, from every state, with at most two entries appended, and
touches no PC, SP, FAULT or byte (40_execution_engine.md, section 3; 30_encoding.md, section 5). -/
def Obligations.EveryInstructionCompletesAtDispatch : Prop :=
  ∀ (i : Instr) (s : State), ∃ t, exec i s = .next t ∧ DispatchFrame s t ∧
    ∃ es, t.queue = s.queue ++ es ∧ es.length ≤ 2 ∧ queueWellFormed es = true

/-- Who may write and who may read the flags (10_state.md, section 2). An instruction that is not one of the eight ALU instructions leaves
F and does the same whatever F holds; so does every Draining step. An ALU instruction's four flags and result do not depend
on F, but for F.C in ADC and SBC. That ADC and SBC do take F.C as carry-in, and that all four flags are written, is
`AluInstructionsWriteAccumulatorAndFlags` with `AluAdcFormula` and `AluSbcFormula`. -/
def Obligations.FlagsWrittenByAluAndCarryReadByAdcSbc : Prop :=
  (∀ (i : Instr) (s t : State) (g : Flags), ¬ IsAlu i → exec i s = .next t →
    t.f = s.f ∧ exec i { s with f := g } = .next { t with f := g }) ∧
  (∀ (op : AluOp) (r : Reg8) (s t : State) (g : Flags), exec (aluInstr op r) s = .next t →
    (op = .adc ∨ op = .sbc → g.c = s.f.c) → exec (aluInstr op r) { s with f := g } = .next t) ∧
  (∀ (s t : State) (g : Flags), s.queue ≠ [] → step s = .next t →
    t.f = s.f ∧ step { s with f := g } = .next { t with f := g })

/-! ## The step -/

/-- An Idle step: the opcode is read at PC, PC advances by one, then the byte is dispatched: exec of the decoded instruction,
or a DecodeFault raised with PC one past the byte. Dispatch actions never read PC and never touch the byte store
(40_execution_engine.md R72). -/
def Obligations.IdleStepFetchesAdvancesDispatches : Prop :=
  (∀ s : State, s.fault = none → s.queue = [] →
    s.accessOf = some (.readByte s.pc) ∧
    (∀ i, s.accepts s.pc = true → decodeOpcode (s.byteAt s.pc) = some i →
      step s = exec i { s with pc := s.pc + 1 }) ∧
    (s.accepts s.pc = true → decodeOpcode (s.byteAt s.pc) = none →
      ∃ f, step s = .fault f ∧ f.left.pc = s.pc + 1)) ∧
  (∀ (i : Instr) (s t : State) (p : Addr) (m : Memory) (rj : List AddrRange), exec i s = .next t →
    exec i { s with pc := p, mem := m, rejected := rj } = .next { t with pc := p, mem := m, rejected := rj })

/-- A Draining step executes the front entry, removes it and advances PC by one; it fetches and dispatches nothing.
LoadImm8 reads the byte at PC as left by the previous step into its register; StoreMem writes its captured byte at its
captured address; WriteReg16 writes its captured value to its pair and makes no access. No flag changes; a register but the
named ones does not change (40_execution_engine.md R73, R74, R75, R76). -/
def Obligations.DrainingStepExecutesFrontEntry : Prop :=
  ∀ (s : State) (es : List MicroOp), s.fault = none →
    (∀ r, s.queue = .loadImm8 r :: es →
      s.accessOf = some (.readByte s.pc) ∧
      (s.accepts s.pc = true → step s = .next { s.setReg r (s.byteAt s.pc) with queue := es, pc := s.pc + 1 }) ∧
      (s.accepts s.pc = false → ∃ u, step s = .fault (.busFault s.pc .read u))) ∧
    (∀ a v, s.queue = .storeMem a v :: es →
      s.accessOf = some (.writeByte a v) ∧
      (s.accepts a = true → step s = .next { s.setByte a v with queue := es, pc := s.pc + 1 }) ∧
      (s.accepts a = false → ∃ u, step s = .fault (.busFault a .write u))) ∧
    (∀ p v, s.queue = .writeReg16 p v :: es →
      s.accessOf = none ∧ step s = .next { s.setPair p v with queue := es, pc := s.pc + 1 })

/-- The scheduler's state machine (40_execution_engine.md R83): from Idle an action that enqueues nothing stays in Idle and
one that enqueues one or two entries goes to Draining, as many entries as the instruction has steps after the first; from
Draining with two entries, one is left; from Draining with one, Idle; a fault leaves the queue as it was, and every later step
too (the freeze is the spec's decision D8, the queue a fault leaves D10). -/
def Obligations.SchedulerTransitions : Prop :=
  (∀ s t : State, step s = .next t →
    (s.queue = [] → ∀ i, decodeOpcode (s.byteAt s.pc) = some i → t.queue.length + 1 = i.length) ∧
    (∀ e f, s.queue = [e, f] → t.queue = [f]) ∧
    (∀ e, s.queue = [e] → t.queue = [])) ∧
  (∀ (s : State) (f : Fault), step s = .fault f → f.left.queue = s.queue ∧ step f.left = .fault f)

/-- A whole LD rr,d16, step by step, with the one access of each step and the fault where that access is rejected: in step 2
the pair is then unchanged, in step 3 its low register has its new value. The byte store may change between the steps (`m1`,
`m2`) and each byte is read in its own step (43_ld16_imm.md R120). -/
def Obligations.LoadPairThreeSteps : Prop :=
  ∀ (p : Pair) (s s1 s2 : State) (m1 m2 : Memory), s.AtBoundary → decodeOpcode (s.byteAt s.pc) = some (ld16Instr p) →
    s1 = { s with pc := s.pc + 1, queue := [.loadImm8 p.loReg, .loadImm8 p.hiReg], mem := m1 } →
    s2 = { s.setReg p.loReg (m1.read (s.pc + 1).toNat) with pc := s.pc + 2, queue := [.loadImm8 p.hiReg], mem := m2 } →
    (s.accepts s.pc = true → step s = .next { s1 with mem := s.mem }) ∧
    (s.accepts s.pc = false → ∃ u, step s = .fault (.busFault s.pc .read u) ∧ u = { s with fault := u.fault }) ∧
    (s.accepts (s.pc + 1) = true → step s1 = .next { s2 with mem := m1 }) ∧
    (s.accepts (s.pc + 1) = false → ∃ u, step s1 = .fault (.busFault (s.pc + 1) .read u) ∧ RegsBut [] s u ∧ u.f = s.f) ∧
    (s.accepts (s.pc + 2) = true →
      step s2 = .next { s.setPair p (m2.read (s.pc + 2).toNat ++ m1.read (s.pc + 1).toNat) with
        pc := s.pc + 3, queue := [], mem := m2 }) ∧
    (s.accepts (s.pc + 2) = false → ∃ u, step s2 = .fault (.busFault (s.pc + 2) .read u) ∧ RegsBut [p.loReg] s u ∧
      u.getReg p.loReg = m1.read (s.pc + 1).toNat ∧ u.f = s.f) ∧
    s.accessOf = some (.readByte s.pc) ∧ s1.accessOf = some (.readByte (s.pc + 1)) ∧
    s2.accessOf = some (.readByte (s.pc + 2))

/-- A whole store, step by step, with the one access of each step and the fault where that access is rejected: in step 1 nothing
else happens, in step 2 the pair is already modified. The byte store may change between the steps (`m1`). The address is the
pair as it was before its own modification; the byte written is A (44_stores.md R130). -/
def Obligations.StoreTwoSteps : Prop :=
  ∀ (m : StoreMode) (s s1 : State) (m1 : Memory), s.AtBoundary → decodeOpcode (s.byteAt s.pc) = some (storeInstr m) →
    s1 = { s.setPair (storePair m) (s.getPair (storePair m) + storeDelta m) with
      pc := s.pc + 1, queue := [.storeMem (s.getPair (storePair m)) s.a], mem := m1 } →
    (s.accepts s.pc = true → step s = .next { s1 with mem := s.mem }) ∧
    (s.accepts s.pc = false → ∃ u, step s = .fault (.busFault s.pc .read u) ∧ u = { s with fault := u.fault }) ∧
    (s.accepts (storeAddr m s) = true →
      step s1 = .next { s1.setByte (storeAddr m s) s.a with pc := s.pc + 2, queue := [] }) ∧
    (s.accepts (storeAddr m s) = false → ∃ u, step s1 = .fault (.busFault (storeAddr m s) .write u) ∧
      RegsBut [] s1 u ∧ u.f = s.f) ∧
    s.accessOf = some (.readByte s.pc) ∧ s1.accessOf = some (.writeByte (storeAddr m s) s.a)

/-- The two steps of a store change the one byte at the address its pair held, which then reads as A, and no other byte
(44_stores.md; 20_memory.md, section 6; that a written byte reads back is the model's store, log 1, and
that the environment is quiet between the two steps is `steps`, log 10). -/
def Obligations.StoreWritesAccumulatorAtPairOnly : Prop :=
  ∀ (m : StoreMode) (s : State), s.AtBoundary → s.mem.wf = true → decodeOpcode (s.byteAt s.pc) = some (storeInstr m) →
    s.accepts s.pc = true → s.accepts (storeAddr m s) = true →
    ∃ t, steps 2 s = .next t ∧ t.byteAt (storeAddr m s) = s.getReg .a ∧
      (∀ x, x ≠ storeAddr m s → t.byteAt x = s.byteAt x) ∧
      t.getPair (storePair m) = s.getPair (storePair m) + storeDelta m ∧
      RegsBut [(storePair m).hiReg, (storePair m).loReg] s t ∧ t.f = s.f ∧ t.sp = s.sp

/-- A whole INC rr, step by step: the byte store may change between the steps (`m1`). The second step makes no access and
cannot fault; no flag changes (45_inc16.md R140). -/
def Obligations.IncrementPairTwoSteps : Prop :=
  ∀ (p : Pair) (s s1 : State) (m1 : Memory), s.AtBoundary → decodeOpcode (s.byteAt s.pc) = some (inc16Instr p) →
    s1 = { s with pc := s.pc + 1, queue := [.writeReg16 p (s.getPair p + 1)], mem := m1 } →
    (s.accepts s.pc = true → step s = .next { s1 with mem := s.mem }) ∧
    (s.accepts s.pc = false → ∃ u, step s = .fault (.busFault s.pc .read u) ∧ u = { s with fault := u.fault }) ∧
    s.accessOf = some (.readByte s.pc) ∧ s1.accessOf = none ∧
    step s1 = .next { s.setPair p (s.getPair p + 1) with pc := s.pc + 2, queue := [], mem := m1 }

/-- Every instruction, run from a boundary for the number of steps of its class, does at once what its class says, and is at
a boundary again: 1 step for LD r,r', INC r and the ALU, 3 for LD rr,d16, 2 for the stores and INC rr; as many bytes as steps
(40_execution_engine.md, section 4, a derived rule; opcode set D2). `steps` lets no environment event stand between the steps,
and every byte is the one the model's store holds in the first state (log 1, log 10; D12); with the environment between the
steps, `LoadPairThreeSteps`, `StoreTwoSteps` and `IncrementPairTwoSteps` say each step. -/
def Obligations.InstructionRunIsItsWholeEffect : Prop :=
  (∀ i : Instr, ∃ k : InstrClass, k.instr = i ∧ k.steps = i.length) ∧
  (∀ (k : InstrClass) (s : State), s.AtBoundary → decodeOpcode (s.byteAt s.pc) = some k.instr →
    (∀ a ∈ k.accessed s, s.accepts a = true) →
    steps k.steps s = .next (k.wholeEffect s) ∧ (k.wholeEffect s).AtBoundary ∧
    (k.wholeEffect s).pc = s.pc + BitVec.ofNat 16 k.instr.length ∧
    ∀ j t, 0 < j → j < k.steps → steps j s = .next t → t.queue ≠ [])

/-- The byte after the opcode of a store or of INC rr has no effect: with any other byte there, the instruction does the same
and the core is in the same state after it (40_execution_engine.md, section 4; 70_reset_and_hazards.md, section 4; conflict
C1 and decision D16). The environment is quiet between the two steps (log 1, log 10). -/
def Obligations.SkippedByteHasNoEffect : Prop :=
  ∀ (k : InstrClass) (s : State) (v : Byte), s.AtBoundary → s.mem.wf = true →
    decodeOpcode (s.byteAt s.pc) = some k.instr → k.steps = 2 → (∀ a ∈ k.accessed s, s.accepts a = true) →
    ∃ t u, steps 2 s = .next t ∧ steps 2 (s.setByte (s.pc + 1) v) = .next u ∧ t.pc = s.pc + 2 ∧ u.coreOf = t.coreOf ∧
      ∀ a, a ≠ s.pc + 1 → u.byteAt a = t.byteAt a

/-- A store is seen by the very next fetch (20_memory.md, section 6; 70_reset_and_hazards.md, section 4; decision D22): after
the write step of a store whose target is the next opcode, the next step runs the stored byte, if the environment does not
change it between the two steps (the store as RAM is log 1, the environment log 10). -/
def Obligations.StoreIsSeenByNextFetch : Prop :=
  ∀ (s : State) (v : Byte) (i : Instr), s.fault = none → s.mem.wf = true → s.queue = [.storeMem (s.pc + 1) v] →
    s.accepts (s.pc + 1) = true → decodeOpcode v = some i →
    ∃ t, step s = .next t ∧ t.byteAt (s.pc + 1) = v ∧ step t = exec i { t with pc := s.pc + 2 }

/-- Every successful step advances PC by exactly one, modulo 65536, so n of them advance it by n; a step that meets a
BusFault leaves it, one that meets a DecodeFault has advanced it (40_execution_engine.md, section 4, a derived rule). -/
def Obligations.SuccessfulStepsAdvancePcByOne : Prop :=
  (∀ (n : Nat) (s t : State), steps n s = .next t → t.pc.toNat = (s.pc.toNat + n) % 65536) ∧
  (∀ (s l : State) (a : Addr) (k : AccessKind), s.fault = none → step s = .fault (.busFault a k l) → l.pc = s.pc) ∧
  (∀ (s l : State) (op : Byte) (a : Addr), s.fault = none → step s = .fault (.decodeFault op a l) → l.pc = s.pc + 1)

/-! ## Faults -/

/-- There are two fatal conditions and no other: a core that is not stopped meets a fault exactly when an Idle step reads an
unmapped byte or the byte store rejects the address of the step's access; otherwise the step answers a next state. No
instruction fails at dispatch, and no step is refused (60_exceptions.md R150). -/
def Obligations.TwoFatalConditionsAndNoOther : Prop :=
  (∀ s : State, s.fault = none →
    ((∃ f, step s = .fault f) ↔
      (s.queue = [] ∧ s.accepts s.pc = true ∧ decodeOpcode (s.byteAt s.pc) = none) ∨
      (∃ x, s.accessOf = some x ∧ s.accepts x.addr = false)) ∧
    ((∃ f, step s = .fault f) ∨ ∃ t, step s = .next t)) ∧
  (∀ (i : Instr) (s : State), ∃ t, exec i s = .next t)

/-- The record of the fault that each condition raises, and the state the failing step leaves (60_exceptions.md, sections 1
and 2; the record's fields are decision D9 and the state left decision D10; log 4). -/
def Obligations.FailingStepLeavesStateOfTable : Prop :=
  ∀ (s : State) (f : Fault), s.fault = none → step s = .fault f →
    (s.queue = [] ∧ s.accepts s.pc = false ∧ f.record = .busFault s.pc .read ∧
      f.left = { s with fault := some f.record }) ∨
    (s.queue = [] ∧ s.accepts s.pc = true ∧ f.record = .decodeFault (s.byteAt s.pc) s.pc ∧
      f.left = { s with pc := s.pc + 1, fault := some f.record }) ∨
    (∃ r es, s.queue = .loadImm8 r :: es ∧ s.accepts s.pc = false ∧ f.record = .busFault s.pc .read ∧
      f.left = { s with fault := some f.record }) ∨
    (∃ a v es, s.queue = .storeMem a v :: es ∧ s.accepts a = false ∧ f.record = .busFault a .write ∧
      f.left = { s with fault := some f.record })

/-- A fault is sticky: the failing step sets FAULT to the record it returns, and every later step of that core returns the
same record, makes no access and changes nothing (60_exceptions.md, section 2; 40_execution_engine.md, section 1; the latch is
decision D8). -/
def Obligations.FaultIsSticky : Prop :=
  (∀ (s : State) (f : Fault), step s = .fault f →
    f.left.fault = some f.record ∧ step f.left = .fault f ∧ f.left.accessOf = none) ∧
  (∀ (s : State) (r : FaultRecord), s.fault = some r →
    s.accessOf = none ∧ ∃ f, step s = .fault f ∧ f.record = r ∧ f.left = s)

/-- Whatever the host and the environment do, a stopped core keeps its fault record and every register, flag, PC, SP and Q
(60_exceptions.md, sections 2 and 4; decision D8; the events are log 10). -/
def Obligations.StoppedCoreNeverChangesAgain : Prop :=
  ∀ (es : List Event) (s : State), s.fault ≠ none → (runEvents es s).coreOf = s.coreOf

/-! ## Memory -/

/-- The access primitives: accepted, the byte at the address, or the one write (`setByte`, which changes nothing but the byte
store); rejected, the BusFault and no access (20_memory.md R32). What the bytes are after a write is `ReadAfterWrite`. -/
def Obligations.AccessPrimitives : Prop :=
  ∀ (s : State) (a : Addr) (v : Byte),
    (s.accepts a = true → memRead a s = .ok (s.byteAt a)) ∧
    (s.accepts a = false → memRead a s = .error (.busFault a .read)) ∧
    (s.accepts a = true → memWrite a v s = .ok (s.setByte a v) ∧ (s.setByte a v).coreOf = s.coreOf) ∧
    (s.accepts a = false → memWrite a v s = .error (.busFault a .write))

/-- The canonical form of the byte store is kept by every write, and makes equal stores equal data (the model's own form,
log 2; the store of 20_memory.md, section 1). -/
def Obligations.CanonicalMemory : Prop :=
  (∀ (m : Memory) (a : Addr) (v : Byte), m.wf = true → (m.write a.toNat v).wf = true) ∧
  (∀ m n : Memory, m.wf = true → n.wf = true → (∀ a : Addr, m.read a.toNat = n.read a.toNat) → m = n)

/-- The byte after a write: the written one at its address, the old one elsewhere, as in RAM (20_memory.md, section 6; the
store as RAM is log 1). -/
def Obligations.ReadAfterWrite : Prop :=
  ∀ (m : Memory) (a b : Addr) (v : Byte), m.wf = true →
    (m.write a.toNat v).read b.toNat = if b = a then v else m.read b.toNat

/-- A step changes at most the one byte of its write access: every other byte, and on every other step all of memory, reads
as before; a failing step changes no byte (20_memory.md, section 4; that the skipped byte is not accessed is decision D16). -/
def Obligations.StepWritesOnlyItsAccess : Prop :=
  (∀ s t : State, s.mem.wf = true → step s = .next t →
    (∀ b v, s.accessOf = some (.writeByte b v) → t.byteAt b = v ∧ ∀ a, a ≠ b → t.byteAt a = s.byteAt a) ∧
    ((∀ b v, s.accessOf ≠ some (.writeByte b v)) → SameBytes s t)) ∧
  (∀ (s : State) (f : Fault), step s = .fault f → f.left.mem = s.mem)

/-- A step depends on the byte store only through the answer to the one read it makes: with any other contents that answer
this read alike, the outcome is the same in everything but the contents (00_scope.md, section 4; 20_memory.md, section 4;
decision D16). -/
def Obligations.StepReadsOnlyItsAccess : Prop :=
  ∀ (s : State) (m : Memory), (∀ a, s.accessOf = some (.readByte a) → m.read a.toNat = s.byteAt a) →
    SameButStore (step s) (step { s with mem := m })

/-! ## Invariants -/

/-- The invariant is kept by every step, whether it answers a next state or stops with a fault (10_state.md, sections 4, 7
and 8; 60_exceptions.md, section 2; the bound of Q is a derived rule; the canonical memory is log 2). -/
def Obligations.StepKeepsInvariant : Prop :=
  ∀ s : State, s.Inv → (∀ t, step s = .next t → t.Inv) ∧ (∀ f, step s = .fault f → f.left.Inv)

/-- In states that meet the invariant Q holds at most two entries, and no entry loads A (10_state.md, section 7; a derived
rule). -/
def Obligations.QueueHoldsAtMostTwo : Prop :=
  ∀ s : State, s.Inv → s.queue.length ≤ Config.qMax ∧ ∀ e ∈ s.queue, e.wellFormed = true

/-- Whatever the host and the environment do, the invariant holds, and SP and the accepted addresses keep their values
(10_state.md, section 5; 20_memory.md, section 6; decision D15; the events are log 10). -/
def Obligations.EventsKeepInvariantAndSp : Prop :=
  ∀ (es : List Event) (s : State),
    (s.Inv → (runEvents es s).Inv) ∧ (runEvents es s).sp = s.sp ∧ (runEvents es s).rejected = s.rejected

/-- Between steps the environment changes bytes of the byte store and nothing of the core (20_memory.md, section 6;
60_exceptions.md, section 3; log 10). -/
def Obligations.EnvironmentChangesOnlyBytes : Prop :=
  ∀ (s : State) (a : Addr) (v : Byte), (Event.apply s (.envWrite a v)).coreOf = s.coreOf ∧
    (s.mem.wf = true → ∀ b, (Event.apply s (.envWrite a v)).byteAt b = if b = a then v else s.byteAt b)

/-! ## Placing an instruction -/

/-- `withFetchWord` makes the very next step run the instruction that the table word decodes to, with the registers, flags,
PC and SP as they were and no byte but the three laid ones changed (the model's convention, log 8). -/
def Obligations.PlacedWordIsRunByNextStep : Prop :=
  ∀ (s : State) (nbits w : Nat) (i : Instr), s.mem.wf = true → decodeTableWord nbits w = some i →
    step (s.withFetchWord nbits w) = exec i (s.withFetchWord nbits w).advancePc ∧
    RegsBut [] s (s.withFetchWord nbits w) ∧ (s.withFetchWord nbits w).f = s.f ∧
    (s.withFetchWord nbits w).pc = s.pc ∧ (s.withFetchWord nbits w).sp = s.sp ∧
    ∀ a, a ≠ s.pc → a ≠ s.pc + 1 → a ≠ s.pc + 2 →
      (s.withFetchWord nbits w).byteAt a = s.byteAt a ∧ (s.withFetchWord nbits w).accepts a = s.accepts a
end

