-- ==== Sys2Proof/Laws/PerInstr.lean ====
section
/-! SUPPORT. Laws/PerInstr.lean: the family RoundTrip, one lemma per constructor of Instr. -/

namespace Sys2Proof.Laws.RoundTrip

/-- The opcode byte of the row decodes to the row (30_encoding.md R57; the decoder reads fields, the encoder rows), and
the instruction length is that of the opcode byte (R60). -/
def Statement (i : Instr) : Prop := decodeOpcode (opcodeOf i) = some i ∧ 1 ≤ i.length ∧ i.length ≤ 3

theorem ldBcD16 : Statement .ldBcD16 := by unfold Statement; decide
theorem ldDeD16 : Statement .ldDeD16 := by unfold Statement; decide
theorem ldHlD16 : Statement .ldHlD16 := by unfold Statement; decide
theorem ldMemBcA : Statement .ldMemBcA := by unfold Statement; decide
theorem ldMemDeA : Statement .ldMemDeA := by unfold Statement; decide
theorem ldMemHlIncA : Statement .ldMemHlIncA := by unfold Statement; decide
theorem ldMemHlDecA : Statement .ldMemHlDecA := by unfold Statement; decide
theorem incBc : Statement .incBc := by unfold Statement; decide
theorem incDe : Statement .incDe := by unfold Statement; decide
theorem incHl : Statement .incHl := by unfold Statement; decide
theorem incB : Statement .incB := by unfold Statement; decide
theorem incC : Statement .incC := by unfold Statement; decide
theorem incD : Statement .incD := by unfold Statement; decide
theorem incE : Statement .incE := by unfold Statement; decide
theorem incH : Statement .incH := by unfold Statement; decide
theorem incL : Statement .incL := by unfold Statement; decide
theorem incA : Statement .incA := by unfold Statement; decide
theorem ldBB : Statement .ldBB := by unfold Statement; decide
theorem ldBC : Statement .ldBC := by unfold Statement; decide
theorem ldBD : Statement .ldBD := by unfold Statement; decide
theorem ldBE : Statement .ldBE := by unfold Statement; decide
theorem ldBH : Statement .ldBH := by unfold Statement; decide
theorem ldBL : Statement .ldBL := by unfold Statement; decide
theorem ldBA : Statement .ldBA := by unfold Statement; decide
theorem ldCB : Statement .ldCB := by unfold Statement; decide
theorem ldCC : Statement .ldCC := by unfold Statement; decide
theorem ldCD : Statement .ldCD := by unfold Statement; decide
theorem ldCE : Statement .ldCE := by unfold Statement; decide
theorem ldCH : Statement .ldCH := by unfold Statement; decide
theorem ldCL : Statement .ldCL := by unfold Statement; decide
theorem ldCA : Statement .ldCA := by unfold Statement; decide
theorem ldDB : Statement .ldDB := by unfold Statement; decide
theorem ldDC : Statement .ldDC := by unfold Statement; decide
theorem ldDD : Statement .ldDD := by unfold Statement; decide
theorem ldDE : Statement .ldDE := by unfold Statement; decide
theorem ldDH : Statement .ldDH := by unfold Statement; decide
theorem ldDL : Statement .ldDL := by unfold Statement; decide
theorem ldDA : Statement .ldDA := by unfold Statement; decide
theorem ldEB : Statement .ldEB := by unfold Statement; decide
theorem ldEC : Statement .ldEC := by unfold Statement; decide
theorem ldED : Statement .ldED := by unfold Statement; decide
theorem ldEE : Statement .ldEE := by unfold Statement; decide
theorem ldEH : Statement .ldEH := by unfold Statement; decide
theorem ldEL : Statement .ldEL := by unfold Statement; decide
theorem ldEA : Statement .ldEA := by unfold Statement; decide
theorem ldHB : Statement .ldHB := by unfold Statement; decide
theorem ldHC : Statement .ldHC := by unfold Statement; decide
theorem ldHD : Statement .ldHD := by unfold Statement; decide
theorem ldHE : Statement .ldHE := by unfold Statement; decide
theorem ldHH : Statement .ldHH := by unfold Statement; decide
theorem ldHL : Statement .ldHL := by unfold Statement; decide
theorem ldHA : Statement .ldHA := by unfold Statement; decide
theorem ldLB : Statement .ldLB := by unfold Statement; decide
theorem ldLC : Statement .ldLC := by unfold Statement; decide
theorem ldLD : Statement .ldLD := by unfold Statement; decide
theorem ldLE : Statement .ldLE := by unfold Statement; decide
theorem ldLH : Statement .ldLH := by unfold Statement; decide
theorem ldLL : Statement .ldLL := by unfold Statement; decide
theorem ldLA : Statement .ldLA := by unfold Statement; decide
theorem ldAB : Statement .ldAB := by unfold Statement; decide
theorem ldAC : Statement .ldAC := by unfold Statement; decide
theorem ldAD : Statement .ldAD := by unfold Statement; decide
theorem ldAE : Statement .ldAE := by unfold Statement; decide
theorem ldAH : Statement .ldAH := by unfold Statement; decide
theorem ldAL : Statement .ldAL := by unfold Statement; decide
theorem ldAA : Statement .ldAA := by unfold Statement; decide
theorem addAB : Statement .addAB := by unfold Statement; decide
theorem addAC : Statement .addAC := by unfold Statement; decide
theorem addAD : Statement .addAD := by unfold Statement; decide
theorem addAE : Statement .addAE := by unfold Statement; decide
theorem addAH : Statement .addAH := by unfold Statement; decide
theorem addAL : Statement .addAL := by unfold Statement; decide
theorem addAA : Statement .addAA := by unfold Statement; decide
theorem adcAB : Statement .adcAB := by unfold Statement; decide
theorem adcAC : Statement .adcAC := by unfold Statement; decide
theorem adcAD : Statement .adcAD := by unfold Statement; decide
theorem adcAE : Statement .adcAE := by unfold Statement; decide
theorem adcAH : Statement .adcAH := by unfold Statement; decide
theorem adcAL : Statement .adcAL := by unfold Statement; decide
theorem adcAA : Statement .adcAA := by unfold Statement; decide
theorem subAB : Statement .subAB := by unfold Statement; decide
theorem subAC : Statement .subAC := by unfold Statement; decide
theorem subAD : Statement .subAD := by unfold Statement; decide
theorem subAE : Statement .subAE := by unfold Statement; decide
theorem subAH : Statement .subAH := by unfold Statement; decide
theorem subAL : Statement .subAL := by unfold Statement; decide
theorem subAA : Statement .subAA := by unfold Statement; decide
theorem sbcAB : Statement .sbcAB := by unfold Statement; decide
theorem sbcAC : Statement .sbcAC := by unfold Statement; decide
theorem sbcAD : Statement .sbcAD := by unfold Statement; decide
theorem sbcAE : Statement .sbcAE := by unfold Statement; decide
theorem sbcAH : Statement .sbcAH := by unfold Statement; decide
theorem sbcAL : Statement .sbcAL := by unfold Statement; decide
theorem sbcAA : Statement .sbcAA := by unfold Statement; decide
theorem andAB : Statement .andAB := by unfold Statement; decide
theorem andAC : Statement .andAC := by unfold Statement; decide
theorem andAD : Statement .andAD := by unfold Statement; decide
theorem andAE : Statement .andAE := by unfold Statement; decide
theorem andAH : Statement .andAH := by unfold Statement; decide
theorem andAL : Statement .andAL := by unfold Statement; decide
theorem andAA : Statement .andAA := by unfold Statement; decide
theorem xorAB : Statement .xorAB := by unfold Statement; decide
theorem xorAC : Statement .xorAC := by unfold Statement; decide
theorem xorAD : Statement .xorAD := by unfold Statement; decide
theorem xorAE : Statement .xorAE := by unfold Statement; decide
theorem xorAH : Statement .xorAH := by unfold Statement; decide
theorem xorAL : Statement .xorAL := by unfold Statement; decide
theorem xorAA : Statement .xorAA := by unfold Statement; decide
theorem orAB : Statement .orAB := by unfold Statement; decide
theorem orAC : Statement .orAC := by unfold Statement; decide
theorem orAD : Statement .orAD := by unfold Statement; decide
theorem orAE : Statement .orAE := by unfold Statement; decide
theorem orAH : Statement .orAH := by unfold Statement; decide
theorem orAL : Statement .orAL := by unfold Statement; decide
theorem orAA : Statement .orAA := by unfold Statement; decide
theorem cpAB : Statement .cpAB := by unfold Statement; decide
theorem cpAC : Statement .cpAC := by unfold Statement; decide
theorem cpAD : Statement .cpAD := by unfold Statement; decide
theorem cpAE : Statement .cpAE := by unfold Statement; decide
theorem cpAH : Statement .cpAH := by unfold Statement; decide
theorem cpAL : Statement .cpAL := by unfold Statement; decide
theorem cpAA : Statement .cpAA := by unfold Statement; decide

end Sys2Proof.Laws.RoundTrip
end

