-- ==== Sys2Proof/Laws/Decode.lean ====
section
/-! SUPPORT. Laws/Decode.lean: decoder and encoder. -/

namespace Sys2Proof

/-- Decoding the opcode byte of an instruction gives it back. -/
theorem decodeOpcode_opcodeOf (i : Instr) : decodeOpcode (opcodeOf i) = some i := by cases i <;> decide

/-- A byte that decodes at all is the opcode byte of what it decodes to. -/
theorem opcodeOf_of_decodeOpcode {b : Byte} {i : Instr} (h : decodeOpcode b = some i) : opcodeOf i = b := by
  have all : ∀ n : Fin 256, ∀ j, decodeOpcode (BitVec.ofFin n) = some j → opcodeOf j = BitVec.ofFin n := by decide +kernel
  exact all b.toFin i h

theorem length_pos (i : Instr) : 1 ≤ i.length := by
  unfold Instr.length lengthOfOpcode
  split
  · omega
  · split <;> omega

/-- Decoding the bytes of a well-formed instruction gives it and what follows. -/
theorem decode_encode (x : Laid) (rest : List Byte) (h : x.wellFormed = true) :
    decode (encode x ++ rest) = .ok (x, rest) := by
  have hl : lengthOfOpcode (opcodeOf x.op) = x.tail.length + 1 := by
    have := h
    simp only [Laid.wellFormed, beq_iff_eq] at this
    exact this.symm
  simp [encode, decode, decodeOpcode_opcodeOf, hl]

/-- The lengths of the three formats (30_encoding.md R51). -/
@[simp] theorem length_ldInstr (dst r : Reg8) : (ldInstr dst r).length = 1 := by cases dst <;> cases r <;> rfl
@[simp] theorem length_aluInstr (o : AluOp) (r : Reg8) : (aluInstr o r).length = 1 := by cases o <;> cases r <;> rfl
@[simp] theorem length_inc8Instr (r : Reg8) : (inc8Instr r).length = 1 := by cases r <;> rfl
@[simp] theorem length_ld16Instr (p : Pair) : (ld16Instr p).length = 3 := by cases p <;> rfl
@[simp] theorem length_storeInstr (m : StoreMode) : (storeInstr m).length = 2 := by cases m <;> rfl
@[simp] theorem length_inc16Instr (p : Pair) : (inc16Instr p).length = 2 := by cases p <;> rfl

end Sys2Proof
end

