-- ==== Sys2Proof/Laws/State.lean ====
section
/-! SUPPORT. Laws/State.lean: one lemma per field per update, so that no proof unfolds a record update. -/

namespace Sys2Proof.Machine

variable (s : State)

/-! ### setFlags -/

@[simp] theorem State.setFlags_a (v : Flags) : (s.setFlags v).a = s.a := rfl
@[simp] theorem State.setFlags_b (v : Flags) : (s.setFlags v).b = s.b := rfl
@[simp] theorem State.setFlags_c (v : Flags) : (s.setFlags v).c = s.c := rfl
@[simp] theorem State.setFlags_d (v : Flags) : (s.setFlags v).d = s.d := rfl
@[simp] theorem State.setFlags_e (v : Flags) : (s.setFlags v).e = s.e := rfl
@[simp] theorem State.setFlags_h (v : Flags) : (s.setFlags v).h = s.h := rfl
@[simp] theorem State.setFlags_l (v : Flags) : (s.setFlags v).l = s.l := rfl
@[simp] theorem State.setFlags_f (v : Flags) : (s.setFlags v).f = v := rfl
@[simp] theorem State.setFlags_pc (v : Flags) : (s.setFlags v).pc = s.pc := rfl
@[simp] theorem State.setFlags_sp (v : Flags) : (s.setFlags v).sp = s.sp := rfl
@[simp] theorem State.setFlags_queue (v : Flags) : (s.setFlags v).queue = s.queue := rfl
@[simp] theorem State.setFlags_fault (v : Flags) : (s.setFlags v).fault = s.fault := rfl
@[simp] theorem State.setFlags_mem (v : Flags) : (s.setFlags v).mem = s.mem := rfl
@[simp] theorem State.setFlags_rejected (v : Flags) : (s.setFlags v).rejected = s.rejected := rfl
@[simp] theorem State.byteAt_setFlags (v : Flags) (y : Addr) : (s.setFlags v).byteAt y = s.byteAt y := rfl
@[simp] theorem State.accepts_setFlags (v : Flags) (y : Addr) : (s.setFlags v).accepts y = s.accepts y := rfl
@[simp] theorem State.getReg_setFlags (v : Flags) (r : Reg8) : (s.setFlags v).getReg r = s.getReg r := by cases r <;> rfl
@[simp] theorem State.getPair_setFlags (v : Flags) (p : Pair) : (s.setFlags v).getPair p = s.getPair p := by cases p <;> rfl

/-! ### advancePc -/

@[simp] theorem State.advancePc_a  : (s.advancePc).a = s.a := rfl
@[simp] theorem State.advancePc_b  : (s.advancePc).b = s.b := rfl
@[simp] theorem State.advancePc_c  : (s.advancePc).c = s.c := rfl
@[simp] theorem State.advancePc_d  : (s.advancePc).d = s.d := rfl
@[simp] theorem State.advancePc_e  : (s.advancePc).e = s.e := rfl
@[simp] theorem State.advancePc_h  : (s.advancePc).h = s.h := rfl
@[simp] theorem State.advancePc_l  : (s.advancePc).l = s.l := rfl
@[simp] theorem State.advancePc_f  : (s.advancePc).f = s.f := rfl
@[simp] theorem State.advancePc_pc  : (s.advancePc).pc = inc16 s.pc := rfl
@[simp] theorem State.advancePc_sp  : (s.advancePc).sp = s.sp := rfl
@[simp] theorem State.advancePc_queue  : (s.advancePc).queue = s.queue := rfl
@[simp] theorem State.advancePc_fault  : (s.advancePc).fault = s.fault := rfl
@[simp] theorem State.advancePc_mem  : (s.advancePc).mem = s.mem := rfl
@[simp] theorem State.advancePc_rejected  : (s.advancePc).rejected = s.rejected := rfl
@[simp] theorem State.byteAt_advancePc  (y : Addr) : (s.advancePc).byteAt y = s.byteAt y := rfl
@[simp] theorem State.accepts_advancePc  (y : Addr) : (s.advancePc).accepts y = s.accepts y := rfl
@[simp] theorem State.getReg_advancePc  (r : Reg8) : (s.advancePc).getReg r = s.getReg r := by cases r <;> rfl
@[simp] theorem State.getPair_advancePc  (p : Pair) : (s.advancePc).getPair p = s.getPair p := by cases p <;> rfl

/-! ### enqueue -/

@[simp] theorem State.enqueue_a (es : List MicroOp) : (s.enqueue es).a = s.a := rfl
@[simp] theorem State.enqueue_b (es : List MicroOp) : (s.enqueue es).b = s.b := rfl
@[simp] theorem State.enqueue_c (es : List MicroOp) : (s.enqueue es).c = s.c := rfl
@[simp] theorem State.enqueue_d (es : List MicroOp) : (s.enqueue es).d = s.d := rfl
@[simp] theorem State.enqueue_e (es : List MicroOp) : (s.enqueue es).e = s.e := rfl
@[simp] theorem State.enqueue_h (es : List MicroOp) : (s.enqueue es).h = s.h := rfl
@[simp] theorem State.enqueue_l (es : List MicroOp) : (s.enqueue es).l = s.l := rfl
@[simp] theorem State.enqueue_f (es : List MicroOp) : (s.enqueue es).f = s.f := rfl
@[simp] theorem State.enqueue_pc (es : List MicroOp) : (s.enqueue es).pc = s.pc := rfl
@[simp] theorem State.enqueue_sp (es : List MicroOp) : (s.enqueue es).sp = s.sp := rfl
@[simp] theorem State.enqueue_queue (es : List MicroOp) : (s.enqueue es).queue = s.queue ++ es := rfl
@[simp] theorem State.enqueue_fault (es : List MicroOp) : (s.enqueue es).fault = s.fault := rfl
@[simp] theorem State.enqueue_mem (es : List MicroOp) : (s.enqueue es).mem = s.mem := rfl
@[simp] theorem State.enqueue_rejected (es : List MicroOp) : (s.enqueue es).rejected = s.rejected := rfl
@[simp] theorem State.byteAt_enqueue (es : List MicroOp) (y : Addr) : (s.enqueue es).byteAt y = s.byteAt y := rfl
@[simp] theorem State.accepts_enqueue (es : List MicroOp) (y : Addr) : (s.enqueue es).accepts y = s.accepts y := rfl
@[simp] theorem State.getReg_enqueue (es : List MicroOp) (r : Reg8) : (s.enqueue es).getReg r = s.getReg r := by cases r <;> rfl
@[simp] theorem State.getPair_enqueue (es : List MicroOp) (p : Pair) : (s.enqueue es).getPair p = s.getPair p := by cases p <;> rfl

/-! ### popQueue -/

@[simp] theorem State.popQueue_a  : (s.popQueue).a = s.a := rfl
@[simp] theorem State.popQueue_b  : (s.popQueue).b = s.b := rfl
@[simp] theorem State.popQueue_c  : (s.popQueue).c = s.c := rfl
@[simp] theorem State.popQueue_d  : (s.popQueue).d = s.d := rfl
@[simp] theorem State.popQueue_e  : (s.popQueue).e = s.e := rfl
@[simp] theorem State.popQueue_h  : (s.popQueue).h = s.h := rfl
@[simp] theorem State.popQueue_l  : (s.popQueue).l = s.l := rfl
@[simp] theorem State.popQueue_f  : (s.popQueue).f = s.f := rfl
@[simp] theorem State.popQueue_pc  : (s.popQueue).pc = s.pc := rfl
@[simp] theorem State.popQueue_sp  : (s.popQueue).sp = s.sp := rfl
@[simp] theorem State.popQueue_queue  : (s.popQueue).queue = s.queue.tail := rfl
@[simp] theorem State.popQueue_fault  : (s.popQueue).fault = s.fault := rfl
@[simp] theorem State.popQueue_mem  : (s.popQueue).mem = s.mem := rfl
@[simp] theorem State.popQueue_rejected  : (s.popQueue).rejected = s.rejected := rfl
@[simp] theorem State.byteAt_popQueue  (y : Addr) : (s.popQueue).byteAt y = s.byteAt y := rfl
@[simp] theorem State.accepts_popQueue  (y : Addr) : (s.popQueue).accepts y = s.accepts y := rfl
@[simp] theorem State.getReg_popQueue  (r : Reg8) : (s.popQueue).getReg r = s.getReg r := by cases r <;> rfl
@[simp] theorem State.getPair_popQueue  (p : Pair) : (s.popQueue).getPair p = s.getPair p := by cases p <;> rfl

/-! ### setByte -/

@[simp] theorem State.setByte_a (x : Addr) (v : Byte) : (s.setByte x v).a = s.a := rfl
@[simp] theorem State.setByte_b (x : Addr) (v : Byte) : (s.setByte x v).b = s.b := rfl
@[simp] theorem State.setByte_c (x : Addr) (v : Byte) : (s.setByte x v).c = s.c := rfl
@[simp] theorem State.setByte_d (x : Addr) (v : Byte) : (s.setByte x v).d = s.d := rfl
@[simp] theorem State.setByte_e (x : Addr) (v : Byte) : (s.setByte x v).e = s.e := rfl
@[simp] theorem State.setByte_h (x : Addr) (v : Byte) : (s.setByte x v).h = s.h := rfl
@[simp] theorem State.setByte_l (x : Addr) (v : Byte) : (s.setByte x v).l = s.l := rfl
@[simp] theorem State.setByte_f (x : Addr) (v : Byte) : (s.setByte x v).f = s.f := rfl
@[simp] theorem State.setByte_pc (x : Addr) (v : Byte) : (s.setByte x v).pc = s.pc := rfl
@[simp] theorem State.setByte_sp (x : Addr) (v : Byte) : (s.setByte x v).sp = s.sp := rfl
@[simp] theorem State.setByte_queue (x : Addr) (v : Byte) : (s.setByte x v).queue = s.queue := rfl
@[simp] theorem State.setByte_fault (x : Addr) (v : Byte) : (s.setByte x v).fault = s.fault := rfl
@[simp] theorem State.setByte_mem (x : Addr) (v : Byte) : (s.setByte x v).mem = s.mem.write x.toNat v := rfl
@[simp] theorem State.setByte_rejected (x : Addr) (v : Byte) : (s.setByte x v).rejected = s.rejected := rfl
@[simp] theorem State.accepts_setByte (x : Addr) (v : Byte) (y : Addr) : (s.setByte x v).accepts y = s.accepts y := rfl
@[simp] theorem State.getReg_setByte (x : Addr) (v : Byte) (r : Reg8) : (s.setByte x v).getReg r = s.getReg r := by cases r <;> rfl
@[simp] theorem State.getPair_setByte (x : Addr) (v : Byte) (p : Pair) : (s.setByte x v).getPair p = s.getPair p := by cases p <;> rfl

/-! ### setReg -/

@[simp] theorem State.setReg_f (r : Reg8) (v : Byte) : (s.setReg r v).f = s.f := by cases r <;> rfl
@[simp] theorem State.setReg_pc (r : Reg8) (v : Byte) : (s.setReg r v).pc = s.pc := by cases r <;> rfl
@[simp] theorem State.setReg_sp (r : Reg8) (v : Byte) : (s.setReg r v).sp = s.sp := by cases r <;> rfl
@[simp] theorem State.setReg_queue (r : Reg8) (v : Byte) : (s.setReg r v).queue = s.queue := by cases r <;> rfl
@[simp] theorem State.setReg_fault (r : Reg8) (v : Byte) : (s.setReg r v).fault = s.fault := by cases r <;> rfl
@[simp] theorem State.setReg_mem (r : Reg8) (v : Byte) : (s.setReg r v).mem = s.mem := by cases r <;> rfl
@[simp] theorem State.setReg_rejected (r : Reg8) (v : Byte) : (s.setReg r v).rejected = s.rejected := by cases r <;> rfl
@[simp] theorem State.byteAt_setReg (r : Reg8) (v : Byte) (y : Addr) : (s.setReg r v).byteAt y = s.byteAt y := by cases r <;> rfl
@[simp] theorem State.accepts_setReg (r : Reg8) (v : Byte) (y : Addr) : (s.setReg r v).accepts y = s.accepts y := by cases r <;> rfl

/-! ### setPair -/

@[simp] theorem State.setPair_f (p : Pair) (v : Addr) : (s.setPair p v).f = s.f := by cases p <;> rfl
@[simp] theorem State.setPair_pc (p : Pair) (v : Addr) : (s.setPair p v).pc = s.pc := by cases p <;> rfl
@[simp] theorem State.setPair_sp (p : Pair) (v : Addr) : (s.setPair p v).sp = s.sp := by cases p <;> rfl
@[simp] theorem State.setPair_queue (p : Pair) (v : Addr) : (s.setPair p v).queue = s.queue := by cases p <;> rfl
@[simp] theorem State.setPair_fault (p : Pair) (v : Addr) : (s.setPair p v).fault = s.fault := by cases p <;> rfl
@[simp] theorem State.setPair_mem (p : Pair) (v : Addr) : (s.setPair p v).mem = s.mem := by cases p <;> rfl
@[simp] theorem State.setPair_rejected (p : Pair) (v : Addr) : (s.setPair p v).rejected = s.rejected := by cases p <;> rfl
@[simp] theorem State.byteAt_setPair (p : Pair) (v : Addr) (y : Addr) : (s.setPair p v).byteAt y = s.byteAt y := by cases p <;> rfl
@[simp] theorem State.accepts_setPair (p : Pair) (v : Addr) (y : Addr) : (s.setPair p v).accepts y = s.accepts y := by cases p <;> rfl

theorem State.getReg_setReg_same (r : Reg8) (v : Byte) : (s.setReg r v).getReg r = v := by cases r <;> rfl

theorem State.getReg_setReg_other (r q : Reg8) (v : Byte) (hq : q ≠ r) : (s.setReg r v).getReg q = s.getReg q := by
  cases r <;> cases q <;> first | rfl | exact absurd rfl hq

/-- Reading a register after writing one. -/
theorem State.getReg_setReg (r q : Reg8) (v : Byte) : (s.setReg r v).getReg q = if q = r then v else s.getReg q := by
  split
  · next h => rw [h, s.getReg_setReg_same]
  · next h => exact s.getReg_setReg_other r q v h

theorem loReg_ne_hiReg (p : Pair) : p.loReg ≠ p.hiReg := by cases p <;> decide

theorem State.getReg_setPair_hi (p : Pair) (v : Addr) : (s.setPair p v).getReg p.hiReg = v.extractLsb' 8 8 := by
  rw [State.setPair, State.getReg_setReg_other _ _ _ _ (Ne.symm (loReg_ne_hiReg p)), State.getReg_setReg_same]

theorem State.getReg_setPair_lo (p : Pair) (v : Addr) : (s.setPair p v).getReg p.loReg = v.extractLsb' 0 8 := by
  rw [State.setPair, State.getReg_setReg_same]

theorem State.getReg_setPair_other (p : Pair) (v : Addr) (r : Reg8) (hh : r ≠ p.hiReg) (hl : r ≠ p.loReg) :
    (s.setPair p v).getReg r = s.getReg r := by
  rw [State.setPair, State.getReg_setReg_other _ _ _ _ hl, State.getReg_setReg_other _ _ _ _ hh]

/-- A pair's value as a number: high byte first (10_state.md R15). -/
theorem toNat_pair (hi lo : Byte) : (hi ++ lo : Addr).toNat = 256 * hi.toNat + lo.toNat := by
  rw [BitVec.toNat_append, ← Nat.shiftLeft_add_eq_or_of_lt lo.isLt, Nat.shiftLeft_eq]
  omega

@[simp] theorem high_pair (hi lo : Byte) : (hi ++ lo : Addr).extractLsb' 8 8 = hi := by
  apply BitVec.eq_of_toNat_eq
  have := hi.isLt
  have := lo.isLt
  rw [BitVec.extractLsb'_toNat, toNat_pair, Nat.shiftRight_eq_div_pow]
  omega

@[simp] theorem low_pair (hi lo : Byte) : (hi ++ lo : Addr).extractLsb' 0 8 = lo := by
  apply BitVec.eq_of_toNat_eq
  have := lo.isLt
  rw [BitVec.extractLsb'_toNat, toNat_pair, Nat.shiftRight_eq_div_pow]
  omega

theorem halves_append (v : Addr) : (v.extractLsb' 8 8 ++ v.extractLsb' 0 8 : Addr) = v := by
  apply BitVec.eq_of_toNat_eq
  have := v.isLt
  rw [toNat_pair, BitVec.extractLsb'_toNat, BitVec.extractLsb'_toNat, Nat.shiftRight_eq_div_pow, Nat.shiftRight_eq_div_pow]
  omega

/-- Reading a pair after writing it. -/
@[simp] theorem State.getPair_setPair_same (p : Pair) (v : Addr) : (s.setPair p v).getPair p = v := by
  rw [State.getPair, s.getReg_setPair_hi, s.getReg_setPair_lo, halves_append]

/-- Writing back what a pair holds changes nothing. -/
@[simp] theorem State.setPair_getPair (p : Pair) : s.setPair p (s.getPair p) = s := by
  cases p <;> simp [State.setPair, State.getPair] <;> rfl

/-- Loading the low register and then the high one is writing the pair (43_ld16_imm.md R120). -/
theorem State.setReg_lo_setReg_hi (p : Pair) (hi lo : Byte) :
    (s.setReg p.loReg lo).setReg p.hiReg hi = s.setPair p (hi ++ lo) := by
  cases p <;> simp [State.setPair] <;> rfl

/-! ### postModify -/

@[simp] theorem postModify_f (m : StoreMode) : (postModify m s).f = s.f := by cases m <;> simp [postModify]
@[simp] theorem postModify_pc (m : StoreMode) : (postModify m s).pc = s.pc := by cases m <;> simp [postModify]
@[simp] theorem postModify_sp (m : StoreMode) : (postModify m s).sp = s.sp := by cases m <;> simp [postModify]
@[simp] theorem postModify_queue (m : StoreMode) : (postModify m s).queue = s.queue := by cases m <;> simp [postModify]
@[simp] theorem postModify_fault (m : StoreMode) : (postModify m s).fault = s.fault := by cases m <;> simp [postModify]
@[simp] theorem postModify_mem (m : StoreMode) : (postModify m s).mem = s.mem := by cases m <;> simp [postModify]
@[simp] theorem postModify_rejected (m : StoreMode) : (postModify m s).rejected = s.rejected := by cases m <;> simp [postModify]
@[simp] theorem postModify_byteAt (m : StoreMode) (y : Addr) : (postModify m s).byteAt y = s.byteAt y := by
  cases m <;> simp [postModify]
@[simp] theorem postModify_accepts (m : StoreMode) (y : Addr) : (postModify m s).accepts y = s.accepts y := by
  cases m <;> simp [postModify]

/-- A store's post-modification writes H and L at most. -/
theorem postModify_getReg_other (m : StoreMode) (r : Reg8) (hh : r ≠ .h) (hl : r ≠ .l) :
    (postModify m s).getReg r = s.getReg r := by
  cases m
  · rfl
  · rfl
  · exact s.getReg_setPair_other .hl _ r hh hl
  · exact s.getReg_setPair_other .hl _ r hh hl

/-! ### flags -/

@[simp] theorem flagsOf_eq (z n h c : Bool) : flagsOf z n h c = ⟨z, n, h, c⟩ := rfl

/-- The low nibble as a remainder. -/
theorem lowNibble_eq (x : Byte) : lowNibble x = x.toNat % 16 :=
  (by simp [lowNibble] : lowNibble x = x.toNat &&& 15).trans (Nat.and_two_pow_sub_one_eq_mod x.toNat 4)

/-! ### faults -/

@[simp] theorem FaultRecord.record_report (r : FaultRecord) (t : State) : (r.report t).record = r := by cases r <;> rfl
@[simp] theorem FaultRecord.left_report (r : FaultRecord) (t : State) : (r.report t).left = t := by cases r <;> rfl
@[simp] theorem Fault.report_record (f : Fault) : f.record.report f.left = f := by cases f <;> rfl

end Sys2Proof.Machine
end

