-- ==== Sys2Proof/Laws/Exec.lean ====
section
/-! SUPPORT. Laws/Exec.lean: the dispatch action of every instruction, by class, and every instruction is of a class. -/

namespace Sys2Proof.Machine

theorem exec_ldInstr (dst r : Reg8) (s : State) : exec (ldInstr dst r) s = load8 dst r s := by cases dst <;> cases r <;> rfl
theorem exec_inc8Instr (r : Reg8) (s : State) : exec (inc8Instr r) s = incReg8 r s := by cases r <;> rfl
theorem exec_add (r : Reg8) (s : State) : exec (aluInstr .add r) s = addReg r s := by cases r <;> rfl
theorem exec_adc (r : Reg8) (s : State) : exec (aluInstr .adc r) s = adcReg r s := by cases r <;> rfl
theorem exec_sub (r : Reg8) (s : State) : exec (aluInstr .sub r) s = subReg r s := by cases r <;> rfl
theorem exec_sbc (r : Reg8) (s : State) : exec (aluInstr .sbc r) s = sbcReg r s := by cases r <;> rfl
theorem exec_and (r : Reg8) (s : State) : exec (aluInstr .and r) s = andReg r s := by cases r <;> rfl
theorem exec_xor (r : Reg8) (s : State) : exec (aluInstr .xor r) s = xorReg r s := by cases r <;> rfl
theorem exec_or (r : Reg8) (s : State) : exec (aluInstr .or r) s = orReg r s := by cases r <;> rfl
theorem exec_cp (r : Reg8) (s : State) : exec (aluInstr .cp r) s = cpReg r s := by cases r <;> rfl
theorem exec_ld16Instr (p : Pair) (s : State) : exec (ld16Instr p) s = load16 p s := by cases p <;> rfl
theorem exec_storeInstr (m : StoreMode) (s : State) : exec (storeInstr m) s = storeA m s := by cases m <;> rfl
theorem exec_inc16Instr (p : Pair) (s : State) : exec (inc16Instr p) s = incReg16 p s := by cases p <;> rfl

/-- The class and operands of each instruction (30_encoding.md R57). -/
def classOf : Instr → InstrClass
  | .ldBcD16 => .ld16 .bc | .ldDeD16 => .ld16 .de | .ldHlD16 => .ld16 .hl
  | .ldMemBcA => .store .bc | .ldMemDeA => .store .de | .ldMemHlIncA => .store .hlInc | .ldMemHlDecA => .store .hlDec
  | .incBc => .inc16 .bc | .incDe => .inc16 .de | .incHl => .inc16 .hl
  | .incB => .inc8 .b | .incC => .inc8 .c | .incD => .inc8 .d | .incE => .inc8 .e | .incH => .inc8 .h | .incL => .inc8 .l | .incA => .inc8 .a
  | .ldBB => .ld .b .b | .ldBC => .ld .b .c | .ldBD => .ld .b .d | .ldBE => .ld .b .e | .ldBH => .ld .b .h | .ldBL => .ld .b .l | .ldBA => .ld .b .a
  | .ldCB => .ld .c .b | .ldCC => .ld .c .c | .ldCD => .ld .c .d | .ldCE => .ld .c .e | .ldCH => .ld .c .h | .ldCL => .ld .c .l | .ldCA => .ld .c .a
  | .ldDB => .ld .d .b | .ldDC => .ld .d .c | .ldDD => .ld .d .d | .ldDE => .ld .d .e | .ldDH => .ld .d .h | .ldDL => .ld .d .l | .ldDA => .ld .d .a
  | .ldEB => .ld .e .b | .ldEC => .ld .e .c | .ldED => .ld .e .d | .ldEE => .ld .e .e | .ldEH => .ld .e .h | .ldEL => .ld .e .l | .ldEA => .ld .e .a
  | .ldHB => .ld .h .b | .ldHC => .ld .h .c | .ldHD => .ld .h .d | .ldHE => .ld .h .e | .ldHH => .ld .h .h | .ldHL => .ld .h .l | .ldHA => .ld .h .a
  | .ldLB => .ld .l .b | .ldLC => .ld .l .c | .ldLD => .ld .l .d | .ldLE => .ld .l .e | .ldLH => .ld .l .h | .ldLL => .ld .l .l | .ldLA => .ld .l .a
  | .ldAB => .ld .a .b | .ldAC => .ld .a .c | .ldAD => .ld .a .d | .ldAE => .ld .a .e | .ldAH => .ld .a .h | .ldAL => .ld .a .l | .ldAA => .ld .a .a
  | .addAB => .alu .add .b | .addAC => .alu .add .c | .addAD => .alu .add .d | .addAE => .alu .add .e | .addAH => .alu .add .h | .addAL => .alu .add .l | .addAA => .alu .add .a
  | .adcAB => .alu .adc .b | .adcAC => .alu .adc .c | .adcAD => .alu .adc .d | .adcAE => .alu .adc .e | .adcAH => .alu .adc .h | .adcAL => .alu .adc .l | .adcAA => .alu .adc .a
  | .subAB => .alu .sub .b | .subAC => .alu .sub .c | .subAD => .alu .sub .d | .subAE => .alu .sub .e | .subAH => .alu .sub .h | .subAL => .alu .sub .l | .subAA => .alu .sub .a
  | .sbcAB => .alu .sbc .b | .sbcAC => .alu .sbc .c | .sbcAD => .alu .sbc .d | .sbcAE => .alu .sbc .e | .sbcAH => .alu .sbc .h | .sbcAL => .alu .sbc .l | .sbcAA => .alu .sbc .a
  | .andAB => .alu .and .b | .andAC => .alu .and .c | .andAD => .alu .and .d | .andAE => .alu .and .e | .andAH => .alu .and .h | .andAL => .alu .and .l | .andAA => .alu .and .a
  | .xorAB => .alu .xor .b | .xorAC => .alu .xor .c | .xorAD => .alu .xor .d | .xorAE => .alu .xor .e | .xorAH => .alu .xor .h | .xorAL => .alu .xor .l | .xorAA => .alu .xor .a
  | .orAB => .alu .or .b | .orAC => .alu .or .c | .orAD => .alu .or .d | .orAE => .alu .or .e | .orAH => .alu .or .h | .orAL => .alu .or .l | .orAA => .alu .or .a
  | .cpAB => .alu .cp .b | .cpAC => .alu .cp .c | .cpAD => .alu .cp .d | .cpAE => .alu .cp .e | .cpAH => .alu .cp .h | .cpAL => .alu .cp .l | .cpAA => .alu .cp .a

theorem instr_classOf (i : Instr) : (classOf i).instr = i := by cases i <;> rfl

theorem classOf_instr (k : InstrClass) : classOf k.instr = k := by
  rcases k with ⟨dst, r⟩ | r | ⟨o, r⟩ | p | m | p
  · cases dst <;> cases r <;> rfl
  · cases r <;> rfl
  · cases o <;> cases r <;> rfl
  · cases p <;> rfl
  · cases m <;> rfl
  · cases p <;> rfl

/-- Every instruction is of a class, with operands. -/
theorem exists_class (i : Instr) : ∃ k : InstrClass, k.instr = i := ⟨classOf i, instr_classOf i⟩

/-- What any dispatch action can do: it always answers a next state; PC, SP, FAULT and the byte store are untouched; Q grows
at the back by at most two entries (40_execution_engine.md R72, R77, R78). -/
theorem exec_next (i : Instr) (s : State) :
    ∃ t, exec i s = .next t ∧ t.pc = s.pc ∧ t.sp = s.sp ∧ t.fault = s.fault ∧ t.mem = s.mem ∧ t.rejected = s.rejected ∧
      ∃ es, t.queue = s.queue ++ es ∧ es.length ≤ 2 ∧ queueWellFormed es = true := by
  obtain ⟨k, rfl⟩ := exists_class i
  rcases k with ⟨dst, r⟩ | r | ⟨o, r⟩ | p | m | p
  · exact ⟨_, exec_ldInstr dst r s, by simp, by simp, by simp, by simp, by simp, [], by simp, by simp, rfl⟩
  · exact ⟨_, exec_inc8Instr r s, by simp, by simp, by simp, by simp, by simp, [], by simp, by simp, rfl⟩
  · cases o
    · exact ⟨_, exec_add r s, by simp, by simp, by simp, by simp, by simp, [], by simp, by simp, rfl⟩
    · exact ⟨_, exec_adc r s, by simp, by simp, by simp, by simp, by simp, [], by simp, by simp, rfl⟩
    · exact ⟨_, exec_sub r s, by simp, by simp, by simp, by simp, by simp, [], by simp, by simp, rfl⟩
    · exact ⟨_, exec_sbc r s, by simp, by simp, by simp, by simp, by simp, [], by simp, by simp, rfl⟩
    · exact ⟨_, exec_and r s, by simp, by simp, by simp, by simp, by simp, [], by simp, by simp, rfl⟩
    · exact ⟨_, exec_xor r s, by simp, by simp, by simp, by simp, by simp, [], by simp, by simp, rfl⟩
    · exact ⟨_, exec_or r s, by simp, by simp, by simp, by simp, by simp, [], by simp, by simp, rfl⟩
    · exact ⟨_, exec_cp r s, by simp, by simp, by simp, by simp, by simp, [], by simp, by simp, rfl⟩
  · exact ⟨_, exec_ld16Instr p s, by simp, by simp, by simp, by simp, by simp, [.loadImm8 p.loReg, .loadImm8 p.hiReg],
      by simp, by simp, by cases p <;> rfl⟩
  · exact ⟨_, exec_storeInstr m s, by simp, by simp, by simp, by simp, by simp, [.storeMem (storeAddr m s) s.a],
      by simp, by simp, rfl⟩
  · exact ⟨_, exec_inc16Instr p s, by simp, by simp, by simp, by simp, by simp, [.writeReg16 p (inc16 (s.getPair p))],
      by simp, by simp, rfl⟩

end Sys2Proof.Machine
end

