-- ==== Sys2Proof/Laws/Memory.lean ====
section
/-! SUPPORT. Laws/Memory.lean: the laws of memory as data: read after write, the canonical form is kept, equal reads are
equal data. -/

namespace Sys2Proof.Machine

/-- The canonical form of a non-empty memory, as a conjunction. -/
theorem Memory.wf_cons {k : Nat} {w : Byte} {m : Memory} :
    Memory.wf ((k, w) :: m) = true ↔
      k < Config.addressSpace ∧ w ≠ Config.unlistedByte ∧ (∀ e ∈ m, k < e.1) ∧ Memory.wf m = true := by
  simp [Memory.wf, and_assoc]

theorem Memory.wf_nil : Memory.wf [] = true := rfl

/-- An address below every listed one is unlisted. -/
theorem Memory.read_below {m : Memory} {a : Nat} (h : ∀ e ∈ m, a < e.1) : Memory.read m a = Config.unlistedByte := by
  induction m with
  | nil => rfl
  | cons e m ih =>
    obtain ⟨k, w⟩ := e
    have hk : a < k := h (k, w) (by simp)
    rw [Memory.read, if_neg (by omega)]
    exact ih fun e he => h e (by simp [he])

/-- What a write can list: what was listed, or the written address. -/
theorem Memory.mem_write {m : Memory} {a : Nat} {v : Byte} {e : Host.Cell} (h : e ∈ Memory.write m a v) :
    e ∈ m ∨ e = (a, v) := by
  induction m with
  | nil =>
    simp only [Memory.write] at h
    split at h
    · simp at h
    · exact .inr (by simpa using h)
  | cons c m ih =>
    obtain ⟨k, w⟩ := c
    simp only [Memory.write] at h
    split at h
    · split at h
      · exact .inl h
      · simp only [List.mem_cons] at h ⊢; tauto
    · split at h
      · split at h
        · exact .inl (by simp [h])
        · simp only [List.mem_cons] at h ⊢; tauto
      · simp only [List.mem_cons] at h ⊢
        rcases h with h | h
        · exact .inl (.inl h)
        · rcases ih h with h | h
          · exact .inl (.inr h)
          · exact .inr h

/-- Every write keeps the canonical form. -/
theorem Memory.wf_write {m : Memory} (a : Nat) (v : Byte) (ha : a < Config.addressSpace) (h : Memory.wf m = true) :
    Memory.wf (Memory.write m a v) = true := by
  induction m with
  | nil =>
    simp only [Memory.write]
    split
    · rfl
    · next hv => exact Memory.wf_cons.2 ⟨ha, hv, by simp, rfl⟩
  | cons c m ih =>
    obtain ⟨k, w⟩ := c
    obtain ⟨hk, hw, hall, hm⟩ := Memory.wf_cons.1 h
    simp only [Memory.write]
    split
    · next hak =>
      split
      · exact h
      · next hv =>
        refine Memory.wf_cons.2 ⟨ha, hv, fun e he => ?_, h⟩
        simp only [List.mem_cons] at he
        rcases he with rfl | he
        · exact hak
        · exact Nat.lt_trans hak (hall e he)
    · split
      · next _ hak =>
        split
        · exact hm
        · next hv => exact Memory.wf_cons.2 ⟨ha, hv, by rw [hak]; exact hall, hm⟩
      · refine Memory.wf_cons.2 ⟨hk, hw, fun e he => ?_, ih hm⟩
        rcases Memory.mem_write he with he | rfl
        · exact hall e he
        · show k < a
          omega

/-- Reading after a write: the written byte at its address, what was there everywhere else. -/
theorem Memory.read_write {m : Memory} (a b : Nat) (v : Byte) (h : Memory.wf m = true) :
    Memory.read (Memory.write m a v) b = if b = a then v else Memory.read m b := by
  induction m with
  | nil =>
    simp only [Memory.write]
    split
    · next hv => simp [Memory.read, hv]
    · simp [Memory.read]
  | cons c m ih =>
    obtain ⟨k, w⟩ := c
    obtain ⟨hk, hw, hall, hm⟩ := Memory.wf_cons.1 h
    have below : ∀ x, x ≤ k → Memory.read m x = Config.unlistedByte := fun x hx =>
      Memory.read_below fun e he => Nat.lt_of_le_of_lt hx (hall e he)
    simp only [Memory.write]
    split
    · next hak =>
      split
      · next hv =>
        split
        · next hb =>
          subst hb
          rw [Memory.read, if_neg (by omega), below _ (by omega), hv]
        · rfl
      · simp only [Memory.read]
    · split
      · next _ hak =>
        subst hak
        split
        · next hv =>
          split
          · next hb => rw [hb, below _ (Nat.le_refl _), hv]
          · next hb => rw [Memory.read, if_neg hb]
        · simp only [Memory.read]
          split <;> simp_all
      · simp only [Memory.read, ih hm]
        split
        · next hb => rw [if_neg (by omega)]
        · rfl

/-- Two memories in canonical form that read the same everywhere are the same list. -/
theorem Memory.ext_of_read {m n : Memory} (hm : Memory.wf m = true) (hn : Memory.wf n = true)
    (h : ∀ a, Memory.read m a = Memory.read n a) : m = n := by
  induction m generalizing n with
  | nil =>
    cases n with
    | nil => rfl
    | cons c n =>
      obtain ⟨k, w⟩ := c
      have := h k
      simp only [Memory.read, if_true] at this
      exact absurd this.symm (Memory.wf_cons.1 hn).2.1
  | cons c m ih =>
    obtain ⟨k, w⟩ := c
    obtain ⟨hk, hw, hall, hm'⟩ := Memory.wf_cons.1 hm
    cases n with
    | nil =>
      have := h k
      simp only [Memory.read, if_true] at this
      exact absurd this hw
    | cons c' n =>
      obtain ⟨j, u⟩ := c'
      obtain ⟨hj, hu, hall', hn'⟩ := Memory.wf_cons.1 hn
      have hkj : k = j := by
        rcases Nat.lt_trichotomy k j with hlt | heq | hgt
        · have e := h k
          rw [Memory.read, if_pos rfl, Memory.read_below (m := (j, u) :: n)] at e
          · exact absurd e hw
          · intro e he
            simp only [List.mem_cons] at he
            rcases he with rfl | he
            · exact hlt
            · exact Nat.lt_trans hlt (hall' e he)
        · exact heq
        · have e := h j
          rw [Memory.read_below (m := (k, w) :: m), Memory.read, if_pos rfl] at e
          · exact absurd e.symm hu
          · intro e he
            simp only [List.mem_cons] at he
            rcases he with rfl | he
            · exact hgt
            · exact Nat.lt_trans hgt (hall e he)
      subst hkj
      have hwu : w = u := by simpa [Memory.read] using h k
      subst hwu
      congr 1
      refine ih hm' hn' fun a => ?_
      have e := h a
      simp only [Memory.read] at e
      split at e
      · next hak =>
        rw [Memory.read_below fun x hx => hak ▸ hall x hx, Memory.read_below fun x hx => hak ▸ hall' x hx]
      · exact e

/-! ### the byte store of a state -/

theorem State.byteAt_setByte (s : State) (a b : Addr) (v : Byte) (h : s.mem.wf = true) :
    (s.setByte a v).byteAt b = if b = a then v else s.byteAt b := by
  simp only [State.byteAt, State.setByte, Memory.read_write _ _ _ h, BitVec.toNat_inj]

theorem State.wf_setByte (s : State) (a : Addr) (v : Byte) (h : s.mem.wf = true) : (s.setByte a v).mem.wf = true :=
  Memory.wf_write _ _ a.isLt h

/-- `MemRead`: what it can answer (20_memory.md R32). -/
theorem memRead_cases (a : Addr) (s : State) :
    (s.accepts a = true ∧ memRead a s = .ok (s.byteAt a)) ∨
      (s.accepts a = false ∧ memRead a s = .error (.busFault a .read)) := by
  unfold memRead
  cases s.accepts a <;> simp

/-- `MemWrite`: what it can answer (20_memory.md R32). -/
theorem memWrite_cases (a : Addr) (v : Byte) (s : State) :
    (s.accepts a = true ∧ memWrite a v s = .ok (s.setByte a v)) ∨
      (s.accepts a = false ∧ memWrite a v s = .error (.busFault a .write)) := by
  unfold memWrite
  cases s.accepts a <;> simp

/-- Taking one address out of the rejected ranges takes out exactly that address. -/
theorem any_acceptAddr (a b : Nat) (rs : List AddrRange) :
    (acceptAddr a rs).any (fun r => r.contains b) = (decide (b ≠ a) && rs.any (fun r => r.contains b)) := by
  induction rs with
  | nil => simp [acceptAddr]
  | cons r rs ih =>
    simp only [acceptAddr]
    split
    · next h =>
      simp only [List.any_cons, ih, AddrRange.contains, Bool.and_eq_true, decide_eq_true_eq] at *
      rw [Bool.eq_iff_iff]
      simp only [Bool.or_eq_true, Bool.and_eq_true, decide_eq_true_eq]
      constructor
      · rintro (⟨h1, h2⟩ | ⟨h1, h2⟩ | ⟨h1, h2⟩)
        · exact ⟨by omega, .inl ⟨h1, by omega⟩⟩
        · exact ⟨by omega, .inl ⟨by omega, h2⟩⟩
        · exact ⟨h1, .inr h2⟩
      · rintro ⟨hb, ⟨h1, h2⟩ | h2⟩
        · rcases Nat.lt_or_gt_of_ne hb with hlt | hgt
          · exact .inl ⟨h1, hlt⟩
          · exact .inr (.inl ⟨by omega, h2⟩)
        · exact .inr (.inr ⟨hb, h2⟩)
    · next h =>
      simp only [List.any_cons, ih]
      by_cases hb : b = a
      · subst hb; simp [h]
      · simp [hb]

end Sys2Proof.Machine
end

