-- ==== Sys2Proof/Laws/Step.lean ====
section
/-! SUPPORT. Laws/Step.lean: what one step can do, case by case; every later proof about a step splits on these. -/

namespace Sys2Proof.Machine

/-! ### one equation per case of the step (40_execution_engine.md R70) -/

theorem step_faulted {s : State} {r : FaultRecord} (h : s.fault = some r) : step s = .fault (r.report s) := by
  simp [step, oneStep, h]

theorem step_idle {s : State} (hf : s.fault = none) (hq : s.queue = []) : step s = idleStep s := by
  simp [step, oneStep, hf, hq]

theorem step_draining {s : State} {e : MicroOp} {es : List MicroOp} (hf : s.fault = none) (hq : s.queue = e :: es) :
    step s = drainStep e s := by
  simp [step, oneStep, hf, hq]

theorem step_mapped {s : State} {i : Instr} (hf : s.fault = none) (hq : s.queue = []) (ha : s.accepts s.pc = true)
    (hd : decodeOpcode (s.byteAt s.pc) = some i) : step s = exec i s.advancePc := by
  simp [step_idle hf hq, idleStep, memRead, ha, dispatch, hd]

theorem step_unmapped {s : State} (hf : s.fault = none) (hq : s.queue = []) (ha : s.accepts s.pc = true)
    (hd : decodeOpcode (s.byteAt s.pc) = none) :
    step s = .fault (.decodeFault (s.byteAt s.pc) s.pc { s.advancePc with fault := some (.decodeFault (s.byteAt s.pc) s.pc) }) := by
  simp [step_idle hf hq, idleStep, memRead, ha, dispatch, hd, stop, FaultRecord.report]

theorem step_fetch_rejected {s : State} (hf : s.fault = none) (hq : s.queue = []) (ha : s.accepts s.pc = false) :
    step s = .fault (.busFault s.pc .read { s with fault := some (.busFault s.pc .read) }) := by
  simp [step_idle hf hq, idleStep, memRead, ha, stop, FaultRecord.report]

theorem step_loadImm8 {s : State} {r : Reg8} {es : List MicroOp} (hf : s.fault = none) (hq : s.queue = .loadImm8 r :: es)
    (ha : s.accepts s.pc = true) : step s = .next (s.setReg r (s.byteAt s.pc)).popQueue.advancePc := by
  simp [step_draining hf hq, drainStep, execMicroOp, memRead, ha]

theorem step_loadImm8_rejected {s : State} {r : Reg8} {es : List MicroOp} (hf : s.fault = none)
    (hq : s.queue = .loadImm8 r :: es) (ha : s.accepts s.pc = false) :
    step s = .fault (.busFault s.pc .read { s with fault := some (.busFault s.pc .read) }) := by
  simp [step_draining hf hq, drainStep, execMicroOp, memRead, ha, stop, FaultRecord.report]

theorem step_storeMem {s : State} {a : Addr} {v : Byte} {es : List MicroOp} (hf : s.fault = none)
    (hq : s.queue = .storeMem a v :: es) (ha : s.accepts a = true) :
    step s = .next (s.setByte a v).popQueue.advancePc := by
  simp [step_draining hf hq, drainStep, execMicroOp, memWrite, ha]

theorem step_storeMem_rejected {s : State} {a : Addr} {v : Byte} {es : List MicroOp} (hf : s.fault = none)
    (hq : s.queue = .storeMem a v :: es) (ha : s.accepts a = false) :
    step s = .fault (.busFault a .write { s with fault := some (.busFault a .write) }) := by
  simp [step_draining hf hq, drainStep, execMicroOp, memWrite, ha, stop, FaultRecord.report]

theorem step_writeReg16 {s : State} {p : Pair} {v : Addr} {es : List MicroOp} (hf : s.fault = none)
    (hq : s.queue = .writeReg16 p v :: es) : step s = .next (s.setPair p v).popQueue.advancePc := by
  simp [step_draining hf hq, drainStep, execMicroOp]

/-! ### the cases of a step, exhaustive -/

/-- What a step that answers a next state did. -/
inductive NextCase (s t : State) : Prop where
  | dispatched (i : Instr) (hf : s.fault = none) (hq : s.queue = []) (ha : s.accepts s.pc = true)
      (hd : decodeOpcode (s.byteAt s.pc) = some i) (he : exec i s.advancePc = .next t)
  | loaded (r : Reg8) (es : List MicroOp) (hf : s.fault = none) (hq : s.queue = .loadImm8 r :: es)
      (ha : s.accepts s.pc = true) (ht : t = (s.setReg r (s.byteAt s.pc)).popQueue.advancePc)
  | stored (a : Addr) (v : Byte) (es : List MicroOp) (hf : s.fault = none) (hq : s.queue = .storeMem a v :: es)
      (ha : s.accepts a = true) (ht : t = (s.setByte a v).popQueue.advancePc)
  | wrotePair (p : Pair) (v : Addr) (es : List MicroOp) (hf : s.fault = none) (hq : s.queue = .writeReg16 p v :: es)
      (ht : t = (s.setPair p v).popQueue.advancePc)

/-- What a step that answers a fault met. -/
inductive FaultCase (s : State) (f : Fault) : Prop where
  | latched (r : FaultRecord) (hf : s.fault = some r) (h : f = r.report s)
  | unmapped (hf : s.fault = none) (hq : s.queue = []) (ha : s.accepts s.pc = true)
      (hd : decodeOpcode (s.byteAt s.pc) = none)
      (h : f = .decodeFault (s.byteAt s.pc) s.pc { s.advancePc with fault := some (.decodeFault (s.byteAt s.pc) s.pc) })
  | fetchRejected (hf : s.fault = none) (hq : s.queue = []) (ha : s.accepts s.pc = false)
      (h : f = .busFault s.pc .read { s with fault := some (.busFault s.pc .read) })
  | loadRejected (r : Reg8) (es : List MicroOp) (hf : s.fault = none) (hq : s.queue = .loadImm8 r :: es)
      (ha : s.accepts s.pc = false) (h : f = .busFault s.pc .read { s with fault := some (.busFault s.pc .read) })
  | storeRejected (a : Addr) (v : Byte) (es : List MicroOp) (hf : s.fault = none) (hq : s.queue = .storeMem a v :: es)
      (ha : s.accepts a = false) (h : f = .busFault a .write { s with fault := some (.busFault a .write) })

/-- A step answers a next state or a fault, each by one of its cases; it never refuses. -/
theorem step_cases (s : State) :
    (∃ t, step s = .next t ∧ NextCase s t) ∨ (∃ f, step s = .fault f ∧ FaultCase s f) := by
  cases hf : s.fault with
  | some r => exact .inr ⟨_, step_faulted hf, .latched r hf rfl⟩
  | none =>
    cases hq : s.queue with
    | nil =>
      cases ha : s.accepts s.pc with
      | false => exact .inr ⟨_, step_fetch_rejected hf hq ha, .fetchRejected hf hq ha rfl⟩
      | true =>
        cases hd : decodeOpcode (s.byteAt s.pc) with
        | none => exact .inr ⟨_, step_unmapped hf hq ha hd, .unmapped hf hq ha hd rfl⟩
        | some i =>
          obtain ⟨t, he, -⟩ := exec_next i s.advancePc
          exact .inl ⟨t, (step_mapped hf hq ha hd).trans he, .dispatched i hf hq ha hd he⟩
    | cons e es =>
      cases e with
      | loadImm8 r =>
        cases ha : s.accepts s.pc with
        | false => exact .inr ⟨_, step_loadImm8_rejected hf hq ha, .loadRejected r es hf hq ha rfl⟩
        | true => exact .inl ⟨_, step_loadImm8 hf hq ha, .loaded r es hf hq ha rfl⟩
      | storeMem a v =>
        cases ha : s.accepts a with
        | false => exact .inr ⟨_, step_storeMem_rejected hf hq ha, .storeRejected a v es hf hq ha rfl⟩
        | true => exact .inl ⟨_, step_storeMem hf hq ha, .stored a v es hf hq ha rfl⟩
      | writeReg16 p v => exact .inl ⟨_, step_writeReg16 hf hq, .wrotePair p v es hf hq rfl⟩

theorem step_next_cases {s t : State} (h : step s = .next t) : NextCase s t := by
  rcases step_cases s with ⟨t', ht, hc⟩ | ⟨f, hf, -⟩
  · rw [h] at ht; cases ht; exact hc
  · rw [h] at hf; cases hf

theorem step_fault_cases {s : State} {f : Fault} (h : step s = .fault f) : FaultCase s f := by
  rcases step_cases s with ⟨t', ht, -⟩ | ⟨f', hf, hc⟩
  · rw [h] at ht; cases ht
  · rw [h] at hf; cases hf; exact hc

end Sys2Proof.Machine
end

