-- ==== Sys2Proof/Laws/Place.lean ====
section
/-! SUPPORT. Laws/Place.lean: what laying an instruction where the next step fetches does to bytes and accepted addresses. -/

namespace Sys2Proof.Machine

theorem State.byteAt_layByte (s : State) (a b : Addr) (v : Byte) (h : s.mem.wf = true) :
    (s.layByte a v).byteAt b = if b = a then v else s.byteAt b := State.byteAt_setByte s a b v h

theorem State.wf_layByte (s : State) (a : Addr) (v : Byte) (h : s.mem.wf = true) : (s.layByte a v).mem.wf = true :=
  State.wf_setByte s a v h

theorem State.accepts_layByte (s : State) (a b : Addr) (v : Byte) :
    (s.layByte a v).accepts b = (decide (b = a) || s.accepts b) := by
  simp only [State.accepts, State.layByte, any_acceptAddr]
  rw [Bool.eq_iff_iff]
  simp [BitVec.toNat_inj]

@[simp] theorem State.a_layByte (s : State) (x : Addr) (v : Byte) : (s.layByte x v).a = s.a := rfl
@[simp] theorem State.b_layByte (s : State) (x : Addr) (v : Byte) : (s.layByte x v).b = s.b := rfl
@[simp] theorem State.c_layByte (s : State) (x : Addr) (v : Byte) : (s.layByte x v).c = s.c := rfl
@[simp] theorem State.d_layByte (s : State) (x : Addr) (v : Byte) : (s.layByte x v).d = s.d := rfl
@[simp] theorem State.e_layByte (s : State) (x : Addr) (v : Byte) : (s.layByte x v).e = s.e := rfl
@[simp] theorem State.h_layByte (s : State) (x : Addr) (v : Byte) : (s.layByte x v).h = s.h := rfl
@[simp] theorem State.l_layByte (s : State) (x : Addr) (v : Byte) : (s.layByte x v).l = s.l := rfl
@[simp] theorem State.f_layByte (s : State) (x : Addr) (v : Byte) : (s.layByte x v).f = s.f := rfl
@[simp] theorem State.pc_layByte (s : State) (x : Addr) (v : Byte) : (s.layByte x v).pc = s.pc := rfl
@[simp] theorem State.sp_layByte (s : State) (x : Addr) (v : Byte) : (s.layByte x v).sp = s.sp := rfl
@[simp] theorem State.queue_layByte (s : State) (x : Addr) (v : Byte) : (s.layByte x v).queue = s.queue := rfl
@[simp] theorem State.fault_layByte (s : State) (x : Addr) (v : Byte) : (s.layByte x v).fault = s.fault := rfl

/-- A placed word, byte by byte. -/
theorem placeWord_eq (s : State) (nbits w : Nat) :
    placeWord s nbits w =
      { ((s.layByte s.pc (BitVec.ofNat 8 (w % 2 ^ nbits))).layByte (s.pc + 1) (BitVec.ofNat 8 (w % 2 ^ nbits / 256))).layByte
          (s.pc + 1 + 1) (BitVec.ofNat 8 (w % 2 ^ nbits / 65536)) with queue := [], fault := none } := by
  simp only [placeWord, bytesOfTableWord, layBytes, inc16]

/-- The three bytes of a placed word, by address: the last one laid wins, so pc + 2 first. -/
theorem byteAt_placeWord (s : State) (nbits w : Nat) (a : Addr) (h : s.mem.wf = true) :
    (placeWord s nbits w).byteAt a =
      if a = s.pc + 1 + 1 then BitVec.ofNat 8 (w % 2 ^ nbits / 65536)
      else if a = s.pc + 1 then BitVec.ofNat 8 (w % 2 ^ nbits / 256)
      else if a = s.pc then BitVec.ofNat 8 (w % 2 ^ nbits)
      else s.byteAt a := by
  rw [placeWord_eq]
  generalize BitVec.ofNat 8 (w % 2 ^ nbits) = x
  generalize BitVec.ofNat 8 (w % 2 ^ nbits / 256) = y
  generalize BitVec.ofNat 8 (w % 2 ^ nbits / 65536) = z
  show (((s.layByte s.pc x).layByte (s.pc + 1) y).layByte (s.pc + 1 + 1) z).byteAt a = _
  rw [State.byteAt_layByte _ _ _ _ (State.wf_layByte _ _ _ (State.wf_layByte _ _ _ h)),
    State.byteAt_layByte _ _ _ _ (State.wf_layByte _ _ _ h), State.byteAt_layByte _ _ _ _ h]

theorem accepts_placeWord (s : State) (nbits w : Nat) (a : Addr) :
    (placeWord s nbits w).accepts a =
      (decide (a = s.pc + 1 + 1) || (decide (a = s.pc + 1) || (decide (a = s.pc) || s.accepts a))) := by
  rw [placeWord_eq]
  generalize BitVec.ofNat 8 (w % 2 ^ nbits) = x
  generalize BitVec.ofNat 8 (w % 2 ^ nbits / 256) = y
  generalize BitVec.ofNat 8 (w % 2 ^ nbits / 65536) = z
  show (((s.layByte s.pc x).layByte (s.pc + 1) y).layByte (s.pc + 1 + 1) z).accepts a = _
  rw [State.accepts_layByte, State.accepts_layByte, State.accepts_layByte]

@[simp] theorem placeWord_queue (s : State) (nbits w : Nat) : (placeWord s nbits w).queue = [] := by
  rw [placeWord_eq]
@[simp] theorem placeWord_fault (s : State) (nbits w : Nat) : (placeWord s nbits w).fault = none := by
  rw [placeWord_eq]
@[simp] theorem placeWord_a (s : State) (nbits w : Nat) : (placeWord s nbits w).a = s.a := by
  simp [placeWord_eq]
@[simp] theorem placeWord_b (s : State) (nbits w : Nat) : (placeWord s nbits w).b = s.b := by
  simp [placeWord_eq]
@[simp] theorem placeWord_c (s : State) (nbits w : Nat) : (placeWord s nbits w).c = s.c := by
  simp [placeWord_eq]
@[simp] theorem placeWord_d (s : State) (nbits w : Nat) : (placeWord s nbits w).d = s.d := by
  simp [placeWord_eq]
@[simp] theorem placeWord_e (s : State) (nbits w : Nat) : (placeWord s nbits w).e = s.e := by
  simp [placeWord_eq]
@[simp] theorem placeWord_h (s : State) (nbits w : Nat) : (placeWord s nbits w).h = s.h := by
  simp [placeWord_eq]
@[simp] theorem placeWord_l (s : State) (nbits w : Nat) : (placeWord s nbits w).l = s.l := by
  simp [placeWord_eq]
@[simp] theorem placeWord_f (s : State) (nbits w : Nat) : (placeWord s nbits w).f = s.f := by
  simp [placeWord_eq]
@[simp] theorem placeWord_pc (s : State) (nbits w : Nat) : (placeWord s nbits w).pc = s.pc := by
  simp [placeWord_eq]
@[simp] theorem placeWord_sp (s : State) (nbits w : Nat) : (placeWord s nbits w).sp = s.sp := by
  simp [placeWord_eq]

/-- An address differs from the next one, and from the one after it, modulo 65536. -/
theorem ne_add_one (a : Addr) : a ≠ a + 1 := by
  intro h
  have := congrArg BitVec.toNat h
  rw [BitVec.toNat_add] at this
  have := a.isLt
  simp at *

theorem ne_add_one_add_one (a : Addr) : a ≠ a + 1 + 1 := by
  intro h
  have := congrArg BitVec.toNat h
  rw [BitVec.toNat_add, BitVec.toNat_add] at this
  have := a.isLt
  simp at *
  omega

/-- What the decoder reads from a table word is what its first byte decodes to. -/
theorem decodeOpcode_of_decodeTableWord {nbits w : Nat} {i : Instr} (h : decodeTableWord nbits w = some i) :
    decodeOpcode (BitVec.ofNat 8 (w % 2 ^ nbits)) = some i := by
  simp only [decodeTableWord, bytesOfTableWord, decode] at h
  split at h
  · next x _ hx =>
    split at hx
    · cases hx
    · next j hj =>
      split at hx
      · cases hx; simpa [hj] using h
      · cases hx
  · cases h

end Sys2Proof.Machine
end

