-- ==== Sys2Proof/Tests/Slice0.lean ====
section
/-! SUPPORT. Tests/Slice0.lean: the model's own tests. Expected values are the spec's: the 16 by 16 grid of 30_encoding.md
R57, the vectors of 95_test_vectors.md (named in each comment), or hand calculation from the rule named. Then, for every
statement with hypotheses, a named witness that meets them. -/

namespace Sys2Proof.Tests

open Sys2Proof.Machine

/-! ## Helpers -/

/-- Reset state but for PC and the bytes of the store. -/
def at' (pc : Addr) (mem : Memory) : State := { State.reset with pc := pc, mem := mem }

/-- The outcome is a next state of which `p` holds. -/
def nextWith (o : Host.Outcome State Fault Refusal) (p : State → Bool) : Bool :=
  match o with
  | .next t => p t
  | _ => false

/-- The outcome is a fault of which `p` holds. -/
def faultWith (o : Host.Outcome State Fault Refusal) (p : Fault → Bool) : Bool :=
  match o with
  | .fault f => p f
  | _ => false

/-! ## WellFormed: ill-formed terms are refused -/

theorem test_illformed_one_byte_instruction_with_tail : (Laid.mk .ldBB [0x00]).wellFormed = false := by decide
theorem test_illformed_skip_without_byte : (Laid.mk .incBc []).wellFormed = false := by decide
theorem test_illformed_d16_with_one_byte : (Laid.mk .ldHlD16 [0x34]).wellFormed = false := by decide
theorem test_illformed_load_of_A : (MicroOp.loadImm8 .a).wellFormed = false := by decide
theorem test_illformed_queue_high_first : queueWellFormed [.loadImm8 .b, .loadImm8 .c] = false := by decide
theorem test_illformed_queue_low_alone : queueWellFormed [.loadImm8 .c] = false := by decide
theorem test_illformed_queue_of_three :
    queueWellFormed [.loadImm8 .c, .loadImm8 .b, .storeMem 0 0] = false := by decide
theorem test_illformed_queue_two_stores : queueWellFormed [.storeMem 0 0, .storeMem 0 0] = false := by decide
theorem test_illformed_memory_order : Memory.wf [(2, 1), (1, 1)] = false := by decide
theorem test_illformed_memory_listed_zero : Memory.wf [(1, 0)] = false := by decide
theorem test_illformed_memory_address : Memory.wf [(65536, 1)] = false := by decide

/-! ## Decode: the whole 16 by 16 grid of 30_encoding.md R57, each cell against its byte -/

theorem test_grid_row_0 : [0x00, 0x01, 0x02, 0x03, 0x04, 0x05, 0x06, 0x07, 0x08, 0x09, 0x0A, 0x0B, 0x0C, 0x0D, 0x0E, 0x0F].map decodeOpcode =
    [none, some .ldBcD16, some .ldMemBcA, some .incBc, some .incB, none, none, none,
      none, none, none, none, some .incC, none, none, none] := by decide
theorem test_grid_row_1 : [0x10, 0x11, 0x12, 0x13, 0x14, 0x15, 0x16, 0x17, 0x18, 0x19, 0x1A, 0x1B, 0x1C, 0x1D, 0x1E, 0x1F].map decodeOpcode =
    [none, some .ldDeD16, some .ldMemDeA, some .incDe, some .incD, none, none, none,
      none, none, none, none, some .incE, none, none, none] := by decide
theorem test_grid_row_2 : [0x20, 0x21, 0x22, 0x23, 0x24, 0x25, 0x26, 0x27, 0x28, 0x29, 0x2A, 0x2B, 0x2C, 0x2D, 0x2E, 0x2F].map decodeOpcode =
    [none, some .ldHlD16, some .ldMemHlIncA, some .incHl, some .incH, none, none, none,
      none, none, none, none, some .incL, none, none, none] := by decide
theorem test_grid_row_3 : [0x30, 0x31, 0x32, 0x33, 0x34, 0x35, 0x36, 0x37, 0x38, 0x39, 0x3A, 0x3B, 0x3C, 0x3D, 0x3E, 0x3F].map decodeOpcode =
    [none, none, some .ldMemHlDecA, none, none, none, none, none,
      none, none, none, none, some .incA, none, none, none] := by decide
theorem test_grid_row_4 : [0x40, 0x41, 0x42, 0x43, 0x44, 0x45, 0x46, 0x47, 0x48, 0x49, 0x4A, 0x4B, 0x4C, 0x4D, 0x4E, 0x4F].map decodeOpcode =
    [some .ldBB, some .ldBC, some .ldBD, some .ldBE, some .ldBH, some .ldBL, none, some .ldBA,
      some .ldCB, some .ldCC, some .ldCD, some .ldCE, some .ldCH, some .ldCL, none, some .ldCA] := by decide
theorem test_grid_row_5 : [0x50, 0x51, 0x52, 0x53, 0x54, 0x55, 0x56, 0x57, 0x58, 0x59, 0x5A, 0x5B, 0x5C, 0x5D, 0x5E, 0x5F].map decodeOpcode =
    [some .ldDB, some .ldDC, some .ldDD, some .ldDE, some .ldDH, some .ldDL, none, some .ldDA,
      some .ldEB, some .ldEC, some .ldED, some .ldEE, some .ldEH, some .ldEL, none, some .ldEA] := by decide
theorem test_grid_row_6 : [0x60, 0x61, 0x62, 0x63, 0x64, 0x65, 0x66, 0x67, 0x68, 0x69, 0x6A, 0x6B, 0x6C, 0x6D, 0x6E, 0x6F].map decodeOpcode =
    [some .ldHB, some .ldHC, some .ldHD, some .ldHE, some .ldHH, some .ldHL, none, some .ldHA,
      some .ldLB, some .ldLC, some .ldLD, some .ldLE, some .ldLH, some .ldLL, none, some .ldLA] := by decide
theorem test_grid_row_7 : [0x70, 0x71, 0x72, 0x73, 0x74, 0x75, 0x76, 0x77, 0x78, 0x79, 0x7A, 0x7B, 0x7C, 0x7D, 0x7E, 0x7F].map decodeOpcode =
    [none, none, none, none, none, none, none, none,
      some .ldAB, some .ldAC, some .ldAD, some .ldAE, some .ldAH, some .ldAL, none, some .ldAA] := by decide
theorem test_grid_row_8 : [0x80, 0x81, 0x82, 0x83, 0x84, 0x85, 0x86, 0x87, 0x88, 0x89, 0x8A, 0x8B, 0x8C, 0x8D, 0x8E, 0x8F].map decodeOpcode =
    [some .addAB, some .addAC, some .addAD, some .addAE, some .addAH, some .addAL, none, some .addAA,
      some .adcAB, some .adcAC, some .adcAD, some .adcAE, some .adcAH, some .adcAL, none, some .adcAA] := by decide
theorem test_grid_row_9 : [0x90, 0x91, 0x92, 0x93, 0x94, 0x95, 0x96, 0x97, 0x98, 0x99, 0x9A, 0x9B, 0x9C, 0x9D, 0x9E, 0x9F].map decodeOpcode =
    [some .subAB, some .subAC, some .subAD, some .subAE, some .subAH, some .subAL, none, some .subAA,
      some .sbcAB, some .sbcAC, some .sbcAD, some .sbcAE, some .sbcAH, some .sbcAL, none, some .sbcAA] := by decide
theorem test_grid_row_A : [0xA0, 0xA1, 0xA2, 0xA3, 0xA4, 0xA5, 0xA6, 0xA7, 0xA8, 0xA9, 0xAA, 0xAB, 0xAC, 0xAD, 0xAE, 0xAF].map decodeOpcode =
    [some .andAB, some .andAC, some .andAD, some .andAE, some .andAH, some .andAL, none, some .andAA,
      some .xorAB, some .xorAC, some .xorAD, some .xorAE, some .xorAH, some .xorAL, none, some .xorAA] := by decide
theorem test_grid_row_B : [0xB0, 0xB1, 0xB2, 0xB3, 0xB4, 0xB5, 0xB6, 0xB7, 0xB8, 0xB9, 0xBA, 0xBB, 0xBC, 0xBD, 0xBE, 0xBF].map decodeOpcode =
    [some .orAB, some .orAC, some .orAD, some .orAE, some .orAH, some .orAL, none, some .orAA,
      some .cpAB, some .cpAC, some .cpAD, some .cpAE, some .cpAH, some .cpAL, none, some .cpAA] := by decide
theorem test_grid_row_C : [0xC0, 0xC1, 0xC2, 0xC3, 0xC4, 0xC5, 0xC6, 0xC7, 0xC8, 0xC9, 0xCA, 0xCB, 0xCC, 0xCD, 0xCE, 0xCF].map decodeOpcode = List.replicate 16 none := by decide
theorem test_grid_row_D : [0xD0, 0xD1, 0xD2, 0xD3, 0xD4, 0xD5, 0xD6, 0xD7, 0xD8, 0xD9, 0xDA, 0xDB, 0xDC, 0xDD, 0xDE, 0xDF].map decodeOpcode = List.replicate 16 none := by decide
theorem test_grid_row_E : [0xE0, 0xE1, 0xE2, 0xE3, 0xE4, 0xE5, 0xE6, 0xE7, 0xE8, 0xE9, 0xEA, 0xEB, 0xEC, 0xED, 0xEE, 0xEF].map decodeOpcode = List.replicate 16 none := by decide
theorem test_grid_row_F : [0xF0, 0xF1, 0xF2, 0xF3, 0xF4, 0xF5, 0xF6, 0xF7, 0xF8, 0xF9, 0xFA, 0xFB, 0xFC, 0xFD, 0xFE, 0xFF].map decodeOpcode = List.replicate 16 none := by decide

/-! ## Decode: one word of each family written out bit by bit from its pattern -/

-- 00pp0001, p = 10 (HL); 00pp0010, p = 11 (HL-); 00pp0011, p = 01 (DE); 00yyy100, y = 101 (L)
theorem test_bits_ld16 : decodeOpcode 0b00100001 = some .ldHlD16 := by decide
theorem test_bits_store : decodeOpcode 0b00110010 = some .ldMemHlDecA := by decide
theorem test_bits_inc16 : decodeOpcode 0b00010011 = some .incDe := by decide
theorem test_bits_inc8 : decodeOpcode 0b00101100 = some .incL := by decide
-- 01yyyzzz, destination y = 011 (E), source z = 010 (D); 10yyyzzz, y = 101 (XOR), z = 000 (B)
theorem test_bits_ld : decodeOpcode 0b01011010 = some .ldED := by decide
theorem test_bits_alu : decodeOpcode 0b10101000 = some .xorAB := by decide

/-- "low=0x0F, high=0xF0": the bytes `01 0F F0` are LD BC,0xF00F (43_ld16_imm.md R121). -/
theorem test_decode_ld_bc : decode [0x01, 0x0F, 0xF0, 0x40] = .ok (laidLd16 .bc 0xF00F, [0x40]) := by decide
theorem test_decode_unmapped : decode [0xCB, 0x11] = .error (.unmapped 0xCB) := by decide
theorem test_decode_truncated : decode [0x11, 0x34] = .error (.truncated .ldDeD16) := by decide
theorem test_decode_skips_padding : decode [0x03, 0x04, 0x0C] = .ok (⟨.incBc, [0x04]⟩, [0x0C]) := by decide

/-! ## ALU functions: rows of 95_test_vectors.md section 2, `op(x, y, cin) -> result ZNHC` -/

-- 2.1: FF + 01 -> 00 1011; 80 + 80 -> 00 1001
theorem test_add_wrap : aluAdd 0xFF 0x01 = ⟨0x00, ⟨true, false, true, true⟩⟩ := by decide
theorem test_add_carry_only : aluAdd 0x80 0x80 = ⟨0x00, ⟨true, false, false, true⟩⟩ := by decide
-- 2.2: 80 + 80 + 1 -> 01 0001 (S3); 0F + 00 + 1 -> 10 0010
theorem test_adc_source : aluAdc 0x80 0x80 true = ⟨0x01, ⟨false, false, false, true⟩⟩ := by decide
theorem test_adc_half_from_carry : aluAdc 0x0F 0x00 true = ⟨0x10, ⟨false, false, true, false⟩⟩ := by decide
-- 2.3: FF - F0 -> 0F 0100 (S2); 3E - 40 -> FE 0101
theorem test_sub_source : aluSub 0xFF 0xF0 = ⟨0x0F, ⟨false, true, false, false⟩⟩ := by decide
theorem test_sub_borrow : aluSub 0x3E 0x40 = ⟨0xFE, ⟨false, true, false, true⟩⟩ := by decide
-- 2.4: 12 - 00 - 0 -> 12 0101 (C3); 15 - 00 - 1 -> 14 0110 (G9); 00 - FF - 1 -> 00 1111; FF - F0 - 1 -> 0E 0100 (S6)
theorem test_sbc_zero_subtrahend : aluSbc 0x12 0x00 false = ⟨0x12, ⟨false, true, false, true⟩⟩ := by decide
theorem test_sbc_half_formula : aluSbc 0x15 0x00 true = ⟨0x14, ⟨false, true, true, false⟩⟩ := by decide
theorem test_sbc_256 : aluSbc 0x00 0xFF true = ⟨0x00, ⟨true, true, true, true⟩⟩ := by decide
theorem test_sbc_source : aluSbc 0xFF 0xF0 true = ⟨0x0E, ⟨false, true, false, false⟩⟩ := by decide
-- 2.5: and(F0, 0F) -> 00 1010; or(5A, 03) -> 5B 0000; xor(FF, 0F) -> F0 0000; cp(00, 01) -> 0111
theorem test_and : aluAnd 0xF0 0x0F = ⟨0x00, ⟨true, false, true, false⟩⟩ := by decide
theorem test_or : aluOr 0x5A 0x03 = ⟨0x5B, ⟨false, false, false, false⟩⟩ := by decide
theorem test_xor : aluXor 0xFF 0x0F = ⟨0xF0, ⟨false, false, false, false⟩⟩ := by decide
theorem test_cp : aluCp 0x00 0x01 = ⟨false, true, true, true⟩ := by decide
/-- 10_state.md R12: Z is bit 7, N 6, H 5, C 4. -/
theorem test_flag_byte : (Flags.mk true false true false).toByte = 0xA0 := by decide

/-! ## Instructions: one step each, on a small state -/

/-- The start state of 95_test_vectors.md section 2.6 with one opcode at 0x0100. -/
def ldStart (op : Byte) : State :=
  { at' 0x0100 [(0x0100, op)] with
    a := 0x11, b := 0x22, c := 0x33, d := 0x44, e := 0x55, h := 0x66, l := 0x77, f := ⟨true, false, true, true⟩ }

-- LD2: LD B,C gives B = 33, BC = 3333; LD5: LD L,H gives HL = 6666; flags stay 1011
theorem test_step_ld_B_C : nextWith (step (ldStart 0x41)) (fun t => t.getPair .bc == 0x3333 && t.pc == 0x0101 &&
    t.f == ⟨true, false, true, true⟩) = true := by decide
theorem test_step_ld_L_H : nextWith (step (ldStart 0x6C)) (fun t => t.getPair .hl == 0x6666 && t.a == 0x11) = true := by
  decide
-- section 2.5, same register twice, A = 88: ADD A,A -> 10 0011; SBC A,A with C = 1 -> FF 0101; CP A keeps A, 1100
def aluStart (op : Byte) (carry : Bool) : State :=
  { at' 0x0100 [(0x0100, op)] with a := 0x88, f := ⟨false, false, false, carry⟩ }
theorem test_step_add_A_A : nextWith (step (aluStart 0x87 true)) (fun t => t.a == 0x10 && t.f == ⟨false, false, true, true⟩) = true := by
  decide
theorem test_step_adc_A_A : nextWith (step (aluStart 0x8F true)) (fun t => t.a == 0x11 && t.f == ⟨false, false, true, true⟩) = true := by
  decide
theorem test_step_sub_A_A : nextWith (step (aluStart 0x97 true)) (fun t => t.a == 0x00 && t.f == ⟨true, true, false, false⟩) = true := by
  decide
theorem test_step_sbc_A_A : nextWith (step (aluStart 0x9F true)) (fun t => t.a == 0xFF && t.f == ⟨false, true, false, true⟩) = true := by
  decide
theorem test_step_and_A_A : nextWith (step (aluStart 0xA7 true)) (fun t => t.a == 0x88 && t.f == ⟨false, false, true, false⟩) = true := by
  decide
theorem test_step_xor_A_A : nextWith (step (aluStart 0xAF true)) (fun t => t.a == 0x00 && t.f == ⟨true, false, false, false⟩) = true := by
  decide
theorem test_step_or_A_A : nextWith (step (aluStart 0xB7 true)) (fun t => t.a == 0x88 && t.f == ⟨false, false, false, false⟩) = true := by
  decide
theorem test_step_cp_A_A : nextWith (step (aluStart 0xBF true)) (fun t => t.a == 0x88 && t.f == ⟨true, true, false, false⟩) = true := by
  decide
-- I8-2: INC A at FF gives 00 and flags stay 0101; I8-3: INC L at FF does not carry into H
theorem test_step_inc_A : nextWith (step { at' 0x0100 [(0x0100, 0x3C)] with a := 0xFF, f := ⟨false, true, false, true⟩ })
    (fun t => t.a == 0x00 && t.f == ⟨false, true, false, true⟩) = true := by decide
theorem test_step_inc_L : nextWith (step { at' 0x0100 [(0x0100, 0x2C)] with l := 0xFF })
    (fun t => t.getPair .hl == 0x0000) = true := by decide
-- L16-3: LD HL,d16 at FFFF queues L then H, PC wraps to 0000
theorem test_step_ld_HL_d16 : nextWith (step (at' 0xFFFF [(0xFFFF, 0x21)]))
    (fun t => t.pc == 0x0000 && t.queue == [.loadImm8 .l, .loadImm8 .h]) = true := by decide
-- ST3: LD (HL+),A with HL = FFFF; ST4: LD (HL-),A with HL = 0000; the entry holds the old HL
theorem test_step_ld_HLinc_A : nextWith (step { at' 0x0100 [(0x0100, 0x22)] with a := 0x5A, h := 0xFF, l := 0xFF })
    (fun t => t.getPair .hl == 0x0000 && t.queue == [.storeMem 0xFFFF 0x5A] && t.byteAt 0xFFFF == 0x00) = true := by decide
theorem test_step_ld_HLdec_A : nextWith (step { at' 0x0100 [(0x0100, 0x32)] with a := 0x5A })
    (fun t => t.getPair .hl == 0xFFFF && t.queue == [.storeMem 0x0000 0x5A]) = true := by decide
theorem test_step_ld_BC_A : nextWith (step { at' 0x0100 [(0x0100, 0x02)] with a := 0x77, b := 0xC1, c := 0x23 })
    (fun t => t.getPair .bc == 0xC123 && t.queue == [.storeMem 0xC123 0x77]) = true := by decide
-- I16-2: INC HL with HL = FFFF captures 0000 and HL keeps its value
theorem test_step_inc_HL : nextWith (step { at' 0x0100 [(0x0100, 0x23)] with h := 0xFF, l := 0xFF })
    (fun t => t.getPair .hl == 0xFFFF && t.queue == [.writeReg16 .hl 0x0000]) = true := by decide

/-! ## Micro-ops -/

theorem test_load_micro_op : nextWith (step { at' 0x0101 [(0x0101, 0x0F)] with queue := [.loadImm8 .c, .loadImm8 .b] })
    (fun t => t.c == 0x0F && t.pc == 0x0102 && t.queue == [.loadImm8 .b]) = true := by decide
theorem test_store_micro_op : nextWith (step { at' 0x0101 [(0x0100, 0x22)] with queue := [.storeMem 0xFFFF 0x5A] })
    (fun t => t.mem == [(0x0100, 0x22), (0xFFFF, 0x5A)] && t.pc == 0x0102 && t.queue == []) = true := by decide
theorem test_store_of_zero_unlists : nextWith (step { at' 0x0101 [(0x8000, 0x22)] with queue := [.storeMem 0x8000 0x00] })
    (fun t => t.mem == []) = true := by decide
theorem test_pair_micro_op : nextWith (step { at' 0x0101 [] with queue := [.writeReg16 .de 0x1300] })
    (fun t => t.d == 0x13 && t.e == 0x00 && t.pc == 0x0102) = true := by decide

/-! ## Faults: 95_test_vectors.md section 2.10 -/

-- F1: CB at 0100
theorem test_fault_unmapped : faultWith (step (at' 0x0100 [(0x0100, 0xCB), (0x0101, 0x11)]))
    (fun f => f.record == .decodeFault 0xCB 0x0100 && f.left.pc == 0x0101) = true := by decide
-- F2: 36 at FFFF
theorem test_fault_unmapped_top : faultWith (step (at' 0xFFFF [(0xFFFF, 0x36)]))
    (fun f => f.record == .decodeFault 0x36 0xFFFF && f.left.pc == 0x0000) = true := by decide
-- F3: all addresses but 0100 accepted
theorem test_fault_fetch_rejected :
    faultWith (step { at' 0x0100 [(0x0100, 0x78)] with rejected := [⟨0x0100, 0x0101⟩] })
    (fun f => f.record == .busFault 0x0100 .read && f.left.pc == 0x0100 && f.left.queue == []) = true := by decide
-- F4, step 3: the high byte's address rejected; BC half loaded, the entry stays
theorem test_fault_load_rejected :
    faultWith (step { at' 0x0102 [(0x0101, 0x34)] with b := 0xAA, c := 0x34, queue := [.loadImm8 .b], rejected := [⟨0x0102, 0x0103⟩] })
    (fun f => f.record == .busFault 0x0102 .read && f.left.getPair .bc == 0xAA34 && f.left.queue == [.loadImm8 .b]) = true := by
  decide
-- F5, step 2: only 0000..7FFF accepted; nothing written, HL stays incremented
theorem test_fault_store_rejected :
    faultWith (step { at' 0x0101 [(0x0100, 0x22)] with h := 0x80, l := 0x01, queue := [.storeMem 0x8000 0x09], rejected := [⟨0x8000, 65536⟩] })
    (fun f => f.record == .busFault 0x8000 .write && f.left.mem == [(0x0100, 0x22)] && f.left.getPair .hl == 0x8001) = true := by
  decide
-- F1, step 2: the same record again
theorem test_fault_latched : faultWith (step { at' 0x0101 [(0x0101, 0x40)] with fault := some (.decodeFault 0xCB 0x0100) })
    (fun f => f.record == .decodeFault 0xCB 0x0100 && f.left.pc == 0x0101) = true := by decide
/-- 60_exceptions.md R155. -/
theorem test_fault_codes : (FaultRecord.decodeFault 0 0).code = 1 ∧ (FaultRecord.busFault 0 .read).code = 2 := by decide

/-! ## Reset and placing -/

/-- Reset lists no byte, so its first fetch reads 0x00, which is unmapped (30_encoding.md R58). -/
theorem test_reset_steps_to_decode_fault :
    faultWith (step State.reset) (fun f => f.record == .decodeFault 0x00 0x0100) = true := by decide
theorem test_placed_ld_A_B : nextWith (step ({ State.reset with b := 0x12 }.withFetchWord 8 0x78)) (fun t => t.a == 0x12) = true := by
  decide
theorem test_placed_table_word : decodeTableWord 8 0x21 = some .ldHlD16 ∧ decodeTableWord 8 0x76 = none := by decide
theorem test_placing_clears_rejection : ({ State.reset with rejected := [⟨0x00F0, 0x0200⟩] }.withFetchWord 8 0x40).rejected =
    [⟨0x00F0, 0x0100⟩, ⟨0x0101, 0x0101⟩, ⟨0x0102, 0x0102⟩, ⟨0x0103, 0x0200⟩] := by decide

/-! ## Witnesses: each meets all hypotheses of the statement (or of the clause) it is named after -/

theorem witness_DecodeEncode : (laidLd16 .de 0xFFFF).wellFormed = true ∧ (Laid.mk .incBc [0x04]).wellFormed = true ∧
    (Laid.mk .cpAA []).wellFormed = true := by decide
theorem witness_DisassembleAssemble : ∀ x ∈ [laidLd16 .bc 0xF00F, ⟨.ldAB, []⟩, ⟨.ldMemHlIncA, [0xFF]⟩], x.wellFormed = true := by
  decide
theorem witness_DecodedBytes : decode [0x22, 0xFF, 0x40] = .ok (⟨.ldMemHlIncA, [0xFF]⟩, [0x40]) := by decide
theorem witness_OpcodeByte : decodeOpcode 0x9F = some .sbcAA ∧ opcodeOf .sbcAA = 0x9F := by decide
theorem witness_FirstStep : (State.construct [(0x0100, 0x3C)] [⟨0x0101, 65536⟩]).accepts 0x0100 = true ∧
    decodeOpcode (Memory.read [(0x0100, 0x3C)] 0x0100) = some .incA := by decide
theorem witness_ConstructionMeetsInvariant : Memory.wf [(0, 0xFF), (65535, 0x01)] = true := by decide
theorem witness_FlagSet : FlagName.c ≠ FlagName.h := by decide
theorem witness_Sbc : (0x01 : Byte) ≠ 0 := by decide

theorem not_alu (i : Instr) (h : ∀ op r, classOf i ≠ .alu op r) : ¬ IsAlu i := by
  rintro ⟨op, r, rfl⟩
  exact h op r (classOf_instr (.alu op r))

theorem witness_Flags_others : ¬ IsAlu .incA ∧ ∃ t, exec .incA State.reset = .next t :=
  ⟨not_alu _ (by intro op r; exact fun h => nomatch h), _, rfl⟩
theorem witness_Flags_alu : (∃ t, exec (aluInstr .sbc .b) State.reset = .next t) ∧
    (Flags.mk true true true false).c = State.reset.f.c := ⟨⟨_, rfl⟩, rfl⟩
theorem witness_Flags_draining : ∃ t, step { at' 0xFFFF [] with queue := [.writeReg16 .de 0xFFFF] } = .next t :=
  ⟨_, step_writeReg16 rfl rfl⟩

/-- A core at a boundary, PC at the top of the address space, with the given opcode there and the given rejected ranges. -/
def topWith (op : Byte) (rj : List AddrRange) : State := { at' 0xFFFF [(0xFFFF, op)] with rejected := rj }

theorem witness_Idle_mapped : (topWith 0x40 [⟨0, 65535⟩]).fault = none ∧ (topWith 0x40 [⟨0, 65535⟩]).queue = [] ∧
    (topWith 0x40 [⟨0, 65535⟩]).accepts 0xFFFF = true ∧ decodeOpcode ((topWith 0x40 []).byteAt 0xFFFF) = some .ldBB := by decide
theorem witness_Idle_unmapped : (topWith 0xCB []).accepts 0xFFFF = true ∧ decodeOpcode ((topWith 0xCB []).byteAt 0xFFFF) = none := by
  decide

/-- A core with one entry queued, PC at the top of the address space. -/
def drainWith (e : MicroOp) (rj : List AddrRange) : State := { at' 0xFFFF [] with queue := [e], rejected := rj }

theorem witness_Draining_accepted : (drainWith (.loadImm8 .b) [⟨0, 65535⟩]).accepts 0xFFFF = true ∧
    (drainWith (.storeMem 0 1) [⟨1, 65536⟩]).accepts 0 = true ∧ (drainWith (.storeMem 0 1) []).fault = none := by decide
theorem witness_Draining_rejected : (drainWith (.loadImm8 .b) [⟨65535, 65536⟩]).accepts 0xFFFF = false ∧
    (drainWith (.storeMem 0 1) [⟨0, 1⟩]).accepts 0 = false := by decide

theorem witness_Scheduler_two : ∃ t, step { at' 0 [] with queue := [.loadImm8 .c, .loadImm8 .b] } = .next t :=
  ⟨_, step_loadImm8 rfl rfl rfl⟩
theorem witness_Scheduler_one : ∃ t, step (drainWith (.loadImm8 .b) []) = .next t := ⟨_, step_loadImm8 rfl rfl rfl⟩
theorem witness_Scheduler_idle : (∃ t, step (topWith 0x23 []) = .next t) ∧ (topWith 0x23 []).queue = [] ∧
    decodeOpcode ((topWith 0x23 []).byteAt 0xFFFF) = some .incHl :=
  ⟨⟨_, step_mapped rfl rfl (by decide) (i := .incHl) (by decide)⟩, rfl, by decide⟩
theorem witness_Scheduler_fault : ∃ f, step (topWith 0xCB []) = .fault f :=
  ⟨_, step_unmapped rfl rfl (by decide) (by decide)⟩

theorem witness_LoadPair : (topWith 0x21 []).AtBoundary ∧ decodeOpcode ((topWith 0x21 []).byteAt 0xFFFF) = some (ld16Instr .hl) ∧
    (topWith 0x21 []).accepts 0xFFFF = true ∧ (topWith 0x21 []).accepts (0xFFFF + 1) = true ∧ (topWith 0x21 []).accepts (0xFFFF + 2) = true :=
  ⟨⟨rfl, rfl⟩, by decide, by decide, by decide, by decide⟩
theorem witness_LoadPair_rejected : (topWith 0x21 [⟨65535, 65536⟩]).accepts 0xFFFF = false ∧
    (topWith 0x21 [⟨0, 1⟩]).accepts (0xFFFF + 1) = false ∧ (topWith 0x21 [⟨1, 2⟩]).accepts (0xFFFF + 2) = false := by decide
theorem witness_Store : (topWith 0x32 []).AtBoundary ∧ decodeOpcode ((topWith 0x32 []).byteAt 0xFFFF) = some (storeInstr .hlDec) ∧
    (topWith 0x32 []).accepts (storeAddr .hlDec (topWith 0x32 [])) = true ∧ (topWith 0x32 []).accepts 0xFFFF = true ∧
    (topWith 0x32 []).mem.wf = true :=
  ⟨⟨rfl, rfl⟩, by decide, by decide, by decide, by decide⟩
theorem witness_Store_rejected : (topWith 0x32 [⟨0, 1⟩]).accepts (storeAddr .hlDec (topWith 0x32 [])) = false ∧
    (topWith 0x32 [⟨65535, 65536⟩]).accepts 0xFFFF = false := by decide
theorem witness_IncrementPair : (topWith 0x13 []).AtBoundary ∧ decodeOpcode ((topWith 0x13 []).byteAt 0xFFFF) = some (inc16Instr .de) ∧
    (topWith 0x13 []).accepts 0xFFFF = true ∧ (topWith 0x13 [⟨65535, 65536⟩]).accepts 0xFFFF = false :=
  ⟨⟨rfl, rfl⟩, by decide, by decide, by decide⟩
theorem witness_InstructionRun (k : InstrClass) : (topWith (opcodeOf k.instr) []).AtBoundary ∧
    decodeOpcode ((topWith (opcodeOf k.instr) []).byteAt (topWith (opcodeOf k.instr) []).pc) = some k.instr ∧
    ∀ a ∈ k.accessed (topWith (opcodeOf k.instr) []), (topWith (opcodeOf k.instr) []).accepts a = true :=
  ⟨⟨rfl, rfl⟩, decodeOpcode_opcodeOf k.instr, fun _ _ => rfl⟩
theorem witness_InstructionRun_inside : ∃ t, steps 1 (topWith 0x21 []) = .next t := by
  have h : step (topWith 0x21 []) = exec .ldHlD16 (topWith 0x21 []).advancePc := step_mapped rfl rfl (by decide) (by decide)
  obtain ⟨t, ht, -⟩ := exec_next .ldHlD16 (topWith 0x21 []).advancePc
  exact ⟨t, by rw [steps, h, ht]; simp only [steps]⟩
theorem witness_SkippedByte : (topWith 0x02 []).AtBoundary ∧ (topWith 0x02 []).mem.wf = true ∧
    decodeOpcode ((topWith 0x02 []).byteAt 0xFFFF) = some (InstrClass.store .bc).instr ∧ (InstrClass.store .bc).steps = 2 ∧
    ∀ a ∈ (InstrClass.store .bc).accessed (topWith 0x02 []), (topWith 0x02 []).accepts a = true :=
  ⟨⟨rfl, rfl⟩, by decide, by decide, rfl, fun _ _ => rfl⟩
theorem witness_StoreIsSeen : (drainWith (.storeMem 0 0x3C) []).queue = [.storeMem ((drainWith (.storeMem 0 0x3C) []).pc + 1) 0x3C] ∧
    (drainWith (.storeMem 0 0x3C) []).accepts (0xFFFF + 1) = true ∧ decodeOpcode 0x3C = some .incA ∧
    (drainWith (.storeMem 0 0x3C) []).mem.wf = true ∧ (drainWith (.storeMem 0 0x3C) []).fault = none := by decide
theorem witness_PcAdvance : ∃ t, steps 1 (topWith 0x40 []) = .next t := by
  have h : step (topWith 0x40 []) = exec .ldBB (topWith 0x40 []).advancePc := step_mapped rfl rfl (by decide) (by decide)
  obtain ⟨t, ht, -⟩ := exec_next .ldBB (topWith 0x40 []).advancePc
  exact ⟨t, by rw [steps, h, ht]; simp only [steps]⟩
theorem witness_PcAdvance_busFault : ∃ l, step (topWith 0x40 [⟨0, 65536⟩]) = .fault (.busFault 0xFFFF .read l) :=
  ⟨_, step_fetch_rejected rfl rfl (by decide)⟩
theorem witness_PcAdvance_decodeFault : ∃ op l, step (topWith 0xCB []) = .fault (.decodeFault op 0xFFFF l) :=
  ⟨_, _, step_unmapped rfl rfl (by decide) (by decide)⟩

theorem witness_FailingStep_fetch : ∃ f, step (topWith 0x40 [⟨65535, 65536⟩]) = .fault f := ⟨_, step_fetch_rejected rfl rfl (by decide)⟩
theorem witness_FailingStep_load : ∃ f, step (drainWith (.loadImm8 .b) [⟨65535, 65536⟩]) = .fault f :=
  ⟨_, step_loadImm8_rejected rfl rfl (by decide)⟩
theorem witness_FailingStep_store : ∃ f, step (drainWith (.storeMem 0 1) [⟨0, 1⟩]) = .fault f :=
  ⟨_, step_storeMem_rejected rfl rfl (by decide)⟩
theorem witness_Sticky_latched : { State.reset with fault := some (.busFault 0 .write) }.fault ≠ none := by decide
theorem witness_AccessPrimitives : { State.reset with rejected := [⟨1, 65535⟩] }.accepts 0 = true ∧
    { State.reset with rejected := [⟨1, 65535⟩] }.accepts 0xFFFF = true ∧
    { State.reset with rejected := [⟨1, 65535⟩] }.accepts 1 = false ∧
    { State.reset with rejected := [⟨1, 65535⟩] }.accepts 0xFFFE = false := by decide
theorem witness_Memory : Memory.wf [(0, 0xFF), (65535, 0x01)] = true ∧
    Memory.write [(0, 0xFF), (65535, 0x01)] 0 0x00 = [(65535, 0x01)] := by decide
theorem witness_StepWrites : (drainWith (.storeMem 0 1) []).mem.wf = true ∧
    (drainWith (.storeMem 0 1) []).accessOf = some (.writeByte 0 1) ∧ (topWith 0x40 []).accessOf = some (.readByte 0xFFFF) := by decide
theorem witness_StepReads : Memory.read [(0, 0x77), (65535, 0x40)] 65535 = (topWith 0x40 []).byteAt 0xFFFF := by decide
theorem witness_Inv : (topWith 0x40 []).Inv := ⟨by decide, by decide, trivial⟩
theorem witness_Inv_next : (drainWith (.storeMem 0 1) []).Inv ∧ ∃ t, step (drainWith (.storeMem 0 1) []) = .next t :=
  ⟨⟨by decide, by decide, trivial⟩, _, step_storeMem rfl rfl (by decide)⟩
theorem witness_Inv_fault : (topWith 0xCB []).Inv ∧ ∃ f, step (topWith 0xCB []) = .fault f :=
  ⟨⟨by decide, by decide, trivial⟩, _, step_unmapped rfl rfl (by decide) (by decide)⟩
theorem witness_Placed : (topWith 0xCB [⟨0, 65536⟩]).mem.wf = true ∧ decodeTableWord 8 0x13 = some .incDe := by decide

end Sys2Proof.Tests
end

section
/-! PROOFS. The family of 10_state.md: pair views (R15) and the Flag Set primitives (R13). -/

namespace Sys2Proof.Machine

/-! ### pair views -/

/-- `v >> 8` as a number (10_state.md R15). -/
theorem toNat_highHalf (v : Addr) : (v.extractLsb' 8 8).toNat = v.toNat / 256 := by
  have := v.isLt
  rw [BitVec.extractLsb'_toNat, Nat.shiftRight_eq_div_pow]
  omega

/-- `v & 0xFF` as a number (10_state.md R15). -/
theorem toNat_lowHalf (v : Addr) : (v.extractLsb' 0 8).toNat = v.toNat % 256 := by
  rw [BitVec.extractLsb'_toNat, Nat.shiftRight_zero]

/-- A pair view as a number, high byte first. -/
theorem State.toNat_getPair (s : State) (p : Pair) :
    (s.getPair p).toNat = 256 * (s.getReg p.hiReg).toNat + (s.getReg p.loReg).toNat :=
  toNat_pair _ _

/-- A write of the high half is at once visible in the pair. -/
theorem State.getPair_setReg_hi (s : State) (p : Pair) (x : Byte) :
    (s.setReg p.hiReg x).getPair p = x ++ s.getReg p.loReg := by
  rw [State.getPair, s.getReg_setReg_same, s.getReg_setReg_other _ _ _ (loReg_ne_hiReg p)]

/-- A write of the low half is at once visible in the pair. -/
theorem State.getPair_setReg_lo (s : State) (p : Pair) (x : Byte) :
    (s.setReg p.loReg x).getPair p = s.getReg p.hiReg ++ x := by
  rw [State.getPair, s.getReg_setReg_same, s.getReg_setReg_other _ _ _ (loReg_ne_hiReg p).symm]

theorem regsBut_setPair (s : State) (p : Pair) (v : Addr) : RegsBut [p.hiReg, p.loReg] s (s.setPair p v) := by
  intro r hr
  obtain ⟨hhi, hlo⟩ : r ≠ p.hiReg ∧ r ≠ p.loReg := by simpa using hr
  exact s.getReg_setPair_other p v r hhi hlo

theorem dispatchFrame_setPair (s : State) (p : Pair) (v : Addr) : DispatchFrame s (s.setPair p v) :=
  ⟨s.setPair_pc p v, s.setPair_sp p v, s.setPair_fault p v, s.setPair_rejected p v, s.byteAt_setPair p v⟩

/-! ### the Flag Set -/

@[simp] theorem Flags.test_clear (f : Flags) (name : FlagName) : f.clear.test name = false := by cases name <;> rfl

/-- Testing a flag after setting one. -/
theorem Flags.test_set (f : Flags) (name other : FlagName) (v : Bool) :
    (f.set name v).test other = if other = name then v else f.test other := by
  cases name <;> cases other <;> rfl

/-- Clearing forgets the old flags, so a computed Flag Set may start from any of them (41_alu.md R90). -/
theorem flagsOf_eq_clear_set (f : Flags) (zero sub half carry : Bool) :
    flagsOf zero sub half carry = (((f.clear.set .z zero).set .n sub).set .h half).set .c carry := rfl

end Sys2Proof.Machine
end

section
open Sys2Proof Sys2Proof.Machine

/-- Settles O10: writing a pair is two register writes, of distinct registers, and reading it is `toNat_pair`. -/
theorem pairsAreViewsHighByteFirst : Obligations.PairsAreViewsHighByteFirst := by
  intro s p v
  have hhi : ((s.setPair p v).getReg p.hiReg).toNat = v.toNat / 256 := by
    rw [s.getReg_setPair_hi, toNat_highHalf]
  have hlo : ((s.setPair p v).getReg p.loReg).toNat = v.toNat % 256 := by
    rw [s.getReg_setPair_lo, toNat_lowHalf]
  refine ⟨s.toNat_getPair p, hhi, hlo, s.getPair_setPair_same p v, regsBut_setPair s p v, dispatchFrame_setPair s p v,
    s.setPair_f p v, s.setPair_queue p v, fun x => ?_, fun x => ?_⟩
  · rw [s.getPair_setReg_hi, toNat_pair]
  · rw [s.getPair_setReg_lo, toNat_pair]

/-- Settles O13, by the laws of `test` after `clear` and after `set`. -/
theorem flagSetPrimitives : Obligations.FlagSetPrimitives := by
  intro f name other v
  refine ⟨f.test_clear name, ?_, fun hother => ?_, flagsOf_eq_clear_set f⟩
  · rw [f.test_set, if_pos rfl]
  · rw [f.test_set, if_neg hother]

end


section
/-! PROOFS. The family of 20_memory.md: the access primitives (R32). -/

namespace Sys2Proof.Machine

theorem memRead_accepted {s : State} {a : Addr} (ha : s.accepts a = true) : memRead a s = .ok (s.byteAt a) :=
  if_pos ha

theorem memRead_rejected {s : State} {a : Addr} (ha : s.accepts a = false) :
    memRead a s = .error (.busFault a .read) :=
  if_neg (by simp [ha])

theorem memWrite_accepted {s : State} {a : Addr} (v : Byte) (ha : s.accepts a = true) :
    memWrite a v s = .ok (s.setByte a v) :=
  if_pos ha

theorem memWrite_rejected {s : State} {a : Addr} (v : Byte) (ha : s.accepts a = false) :
    memWrite a v s = .error (.busFault a .write) :=
  if_neg (by simp [ha])

/-- A write of the byte store touches nothing of the core. -/
@[simp] theorem State.coreOf_setByte (s : State) (a : Addr) (v : Byte) : (s.setByte a v).coreOf = s.coreOf := rfl

end Sys2Proof.Machine
end

section
open Sys2Proof Sys2Proof.Machine

/-- Settles O44: each primitive by the two answers it can give, and an accepted write by its frame. -/
theorem accessPrimitives : Obligations.AccessPrimitives := by
  intro s a v
  exact ⟨memRead_accepted, memRead_rejected, fun ha => ⟨memWrite_accepted v ha, s.coreOf_setByte a v⟩,
    memWrite_rejected v⟩

end

section
/-! PROOFS. The family of 40_execution_engine.md: the Idle step (R72) and the Draining step (R73 to R76). -/

namespace Sys2Proof.Machine

/-! ### the access of a step (20_memory.md R37) -/

theorem State.accessOf_idle {s : State} (hf : s.fault = none) (hq : s.queue = []) :
    s.accessOf = some (.readByte s.pc) := by
  simp [State.accessOf, hf, hq]

theorem State.accessOf_loadImm8 {s : State} {r : Reg8} {es : List MicroOp} (hf : s.fault = none)
    (hq : s.queue = .loadImm8 r :: es) : s.accessOf = some (.readByte s.pc) := by
  simp [State.accessOf, hf, hq]

theorem State.accessOf_storeMem {s : State} {a : Addr} {v : Byte} {es : List MicroOp} (hf : s.fault = none)
    (hq : s.queue = .storeMem a v :: es) : s.accessOf = some (.writeByte a v) := by
  simp [State.accessOf, hf, hq]

theorem State.accessOf_writeReg16 {s : State} {p : Pair} {v : Addr} {es : List MicroOp} (hf : s.fault = none)
    (hq : s.queue = .writeReg16 p v :: es) : s.accessOf = none := by
  simp [State.accessOf, hf, hq]

/-! ### dispatch reads neither PC nor the byte store (40_execution_engine.md R72) -/

/-- The same core with another PC and bound to another byte store. -/
def State.rebind (s : State) (p : Addr) (m : Memory) (rj : List AddrRange) : State :=
  { s with pc := p, mem := m, rejected := rj }

section
variable (s : State) (p : Addr) (m : Memory) (rj : List AddrRange)

@[simp] theorem State.rebind_a : (s.rebind p m rj).a = s.a := rfl
@[simp] theorem State.rebind_f : (s.rebind p m rj).f = s.f := rfl
@[simp] theorem State.getReg_rebind (r : Reg8) : (s.rebind p m rj).getReg r = s.getReg r := by cases r <;> rfl
@[simp] theorem State.getPair_rebind (q : Pair) : (s.rebind p m rj).getPair q = s.getPair q := by simp [State.getPair]

@[simp] theorem State.setReg_rebind (r : Reg8) (v : Byte) :
    (s.rebind p m rj).setReg r v = (s.setReg r v).rebind p m rj := by cases r <;> rfl

@[simp] theorem State.setFlags_rebind (f : Flags) :
    (s.rebind p m rj).setFlags f = (s.setFlags f).rebind p m rj := rfl

@[simp] theorem State.setPair_rebind (q : Pair) (v : Addr) :
    (s.rebind p m rj).setPair q v = (s.setPair q v).rebind p m rj := by simp [State.setPair]

@[simp] theorem State.enqueue_rebind (es : List MicroOp) :
    (s.rebind p m rj).enqueue es = (s.enqueue es).rebind p m rj := rfl

@[simp] theorem postModify_rebind (k : StoreMode) :
    postModify k (s.rebind p m rj) = (postModify k s).rebind p m rj := by cases k <;> simp [postModify]

end

/-- The eight ALU instructions are one template over `aluOutput`; cp writes A back to itself (41_alu.md R99). -/
theorem exec_aluInstr (op : AluOp) (r : Reg8) (s : State) :
    exec (aluInstr op r) s = accumulate (aluOutput op s.a (s.getReg r) s.f.c) s := by
  cases op with
  | add => exact exec_add r s
  | adc => exact exec_adc r s
  | sub => exact exec_sub r s
  | sbc => exact exec_sbc r s
  | and => exact exec_and r s
  | xor => exact exec_xor r s
  | or => exact exec_or r s
  | cp => exact exec_cp r s

/-- Dispatch commutes with `rebind`: its next state depends on neither PC nor the byte store, and it changes neither. -/
theorem exec_rebind {i : Instr} {s t : State} (h : exec i s = .next t) (p : Addr) (m : Memory) (rj : List AddrRange) :
    exec i (s.rebind p m rj) = .next (t.rebind p m rj) := by
  obtain ⟨k, rfl⟩ := exists_class i
  cases k with
  | ld dst r =>
    obtain rfl := Host.Outcome.next.inj ((exec_ldInstr dst r s).symm.trans h)
    exact (exec_ldInstr dst r _).trans (by simp [load8])
  | inc8 r =>
    obtain rfl := Host.Outcome.next.inj ((exec_inc8Instr r s).symm.trans h)
    exact (exec_inc8Instr r _).trans (by simp [incReg8])
  | alu op r =>
    obtain rfl := Host.Outcome.next.inj ((exec_aluInstr op r s).symm.trans h)
    exact (exec_aluInstr op r _).trans (by simp [accumulate])
  | ld16 q =>
    obtain rfl := Host.Outcome.next.inj ((exec_ld16Instr q s).symm.trans h)
    exact (exec_ld16Instr q _).trans (by simp [load16])
  | store k =>
    obtain rfl := Host.Outcome.next.inj ((exec_storeInstr k s).symm.trans h)
    exact (exec_storeInstr k _).trans (by simp [storeA, storeAddr])
  | inc16 q =>
    obtain rfl := Host.Outcome.next.inj ((exec_inc16Instr q s).symm.trans h)
    exact (exec_inc16Instr q _).trans (by simp [incReg16])

/-! ### the end of a Draining step (40_execution_engine.md R73) -/

/-- Removing the front entry and advancing PC writes Q and PC alone. -/
theorem State.advancePc_popQueue {u : State} {e : MicroOp} {es : List MicroOp} (hq : u.queue = e :: es) :
    u.popQueue.advancePc = { u with queue := es, pc := u.pc + 1 } := by
  simp [State.popQueue, State.advancePc, inc16, hq]

end Sys2Proof.Machine
end

section
open Sys2Proof Sys2Proof.Machine

/-- Settles O29: the Idle step by its equations, and dispatch because it commutes with `rebind`. -/
theorem idleStepFetchesAdvancesDispatches : Obligations.IdleStepFetchesAdvancesDispatches := by
  refine ⟨fun s hf hq => ⟨State.accessOf_idle hf hq, fun i ha hd => step_mapped hf hq ha hd, fun ha hd => ?_⟩,
    fun i s t p m rj h => exec_rebind h p m rj⟩
  exact ⟨_, step_unmapped hf hq ha hd, rfl⟩

/-- Settles O30: the equation of the step for each micro-op, then `State.advancePc_popQueue`. -/
theorem drainingStepExecutesFrontEntry : Obligations.DrainingStepExecutesFrontEntry := by
  intro s es hf
  refine ⟨fun r hq => ⟨State.accessOf_loadImm8 hf hq, fun ha => ?_, fun ha => ⟨_, step_loadImm8_rejected hf hq ha⟩⟩,
    fun a v hq => ⟨State.accessOf_storeMem hf hq, fun ha => ?_, fun ha => ⟨_, step_storeMem_rejected hf hq ha⟩⟩,
    fun p v hq => ⟨State.accessOf_writeReg16 hf hq, ?_⟩⟩
  · rw [step_loadImm8 hf hq ha, State.advancePc_popQueue ((s.setReg_queue r _).trans hq), s.setReg_pc]
  · rw [step_storeMem hf hq ha, State.advancePc_popQueue ((s.setByte_queue a v).trans hq), s.setByte_pc]
  · rw [step_writeReg16 hf hq, State.advancePc_popQueue ((s.setPair_queue p v).trans hq), s.setPair_pc]

end

section
/-! PROOFS. The family of 41_alu.md: results and flags of the ALU functions (R91 to R98). -/

namespace Sys2Proof.Machine

/-! ### bytes as numbers, and the computed Flag Set -/

/-- A number reduced to eight bits is its remainder, also when it is negative. -/
theorem toNat_ofInt_byte (k : Int) : ((BitVec.ofInt 8 k).toNat : Int) = k % 256 := by
  rw [BitVec.toNat_ofInt, Int.toNat_of_nonneg (Int.emod_nonneg k (by decide))]
  rfl

/-- Every ALU function computes Z from its result (41_alu.md R90), so a flag formula needs Z as a fact about the result. -/
theorem flagsAre_flagsOf {r : Byte} {n h c : Bool} {zero sub half carry : Prop} (hz : r.toNat = 0 ↔ zero)
    (hn : n = true ↔ sub) (hh : h = true ↔ half) (hc : c = true ↔ carry) :
    FlagsAre (flagsOf (r == 0) n h c) zero sub half carry := by
  refine ⟨?_, hn, hh, hc⟩
  rw [flagsOf_eq, beq_iff_eq, ← hz]
  exact BitVec.toNat_inj.symm

section
variable (x y : Byte) (cin : Bool)

/-! ### adc and add (41_alu.md R91, R92) -/

theorem toNat_aluAdc_result : (aluAdc x y cin).result.toNat = (x.toNat + y.toNat + cin.toNat) % 256 :=
  BitVec.toNat_ofNat _ 8

theorem flagsAre_aluAdc : FlagsAre (aluAdc x y cin).flags ((x.toNat + y.toNat + cin.toNat) % 256 = 0) False
    (x.toNat % 16 + y.toNat % 16 + cin.toNat > 15) (x.toNat + y.toNat + cin.toNat > 255) := by
  refine flagsAre_flagsOf ?_ (by decide) ?_ decide_eq_true_iff
  · rw [← toNat_aluAdc_result]
    exact Iff.rfl
  · rw [decide_eq_true_iff, lowNibble_eq, lowNibble_eq, carryIn]

/-- add is adc with no carry-in. -/
theorem aluAdc_false : aluAdc x y false = aluAdd x y := rfl

/-! ### sub and sbc (41_alu.md R93, R94) -/

theorem toNat_aluSub_result : ((aluSub x y).result.toNat : Int) = ((x.toNat : Int) - y.toNat) % 256 :=
  toNat_ofInt_byte _

theorem aluSub_result_eq_zero_iff : (aluSub x y).result.toNat = 0 ↔ x = y := by
  have hr := toNat_aluSub_result x y
  have hx := x.isLt
  have hy := y.isLt
  rw [← BitVec.toNat_inj]
  omega

theorem flagsAre_aluSub :
    FlagsAre (aluSub x y).flags (x = y) True (x.toNat % 16 < y.toNat % 16) (x.toNat < y.toNat) := by
  refine flagsAre_flagsOf (aluSub_result_eq_zero_iff x y) (by decide) ?_ decide_eq_true_iff
  rw [decide_eq_true_iff, lowNibble_eq, lowNibble_eq]

theorem toNat_aluSbc_result :
    ((aluSbc x y cin).result.toNat : Int) = ((x.toNat : Int) - y.toNat - cin.toNat) % 256 :=
  toNat_ofInt_byte _

theorem flagsAre_aluSbc : FlagsAre (aluSbc x y cin).flags (((x.toNat : Int) - y.toNat - cin.toNat) % 256 = 0) True
    (((x.toNat % 16 : Nat) : Int) < (((y.toNat : Int) - cin.toNat) % 256) % 16)
    ((aluSbc x y cin).result.toNat ≥ x.toNat) := by
  refine flagsAre_flagsOf ?_ (by decide) ?_ decide_eq_true_iff
  · rw [← toNat_aluSbc_result]
    exact Int.natCast_eq_zero.symm
  · rw [decide_eq_true_iff, lowNibble_eq, lowNibble_eq, ← toNat_ofInt_byte, carryIn]
    exact Int.ofNat_lt.symm

/-- Subtracting t from a byte modulo 256 gives no less than that byte exactly when it borrows (x < t) or takes nothing
away (t a multiple of 256). -/
theorem le_aluSbc_result_iff : (aluSbc x y cin).result.toNat ≥ x.toNat ↔
    x.toNat < y.toNat + cin.toNat ∨ y.toNat + cin.toNat = 256 ∨ y.toNat + cin.toNat = 0 := by
  have hr := toNat_aluSbc_result x y cin
  have hx := x.isLt
  have hy := y.isLt
  have hc := cin.toNat_le
  omega

/-! ### and, or, xor (41_alu.md R95 to R97) -/

theorem flagsAre_aluAnd : FlagsAre (aluAnd x y).flags ((aluAnd x y).result.toNat = 0) False True False :=
  flagsAre_flagsOf Iff.rfl (by decide) (by decide) (by decide)

theorem flagsAre_aluOr : FlagsAre (aluOr x y).flags ((aluOr x y).result.toNat = 0) False False False :=
  flagsAre_flagsOf Iff.rfl (by decide) (by decide) (by decide)

theorem flagsAre_aluXor : FlagsAre (aluXor x y).flags ((aluXor x y).result.toNat = 0) False False False :=
  flagsAre_flagsOf Iff.rfl (by decide) (by decide) (by decide)

end

end Sys2Proof.Machine
end

section
open Sys2Proof Sys2Proof.Machine

/-- Settles O15: add is adc with no carry-in, so adc's formulas at 0 are add's. -/
theorem aluAddFormula : Obligations.AluAddFormula := by
  intro x y
  rw [← aluAdc_false]
  exact ⟨toNat_aluAdc_result x y false, flagsAre_aluAdc x y false⟩

/-- Settles O16, by the result and the flags of the one three-term sum. -/
theorem aluAdcFormula : Obligations.AluAdcFormula := by
  intro x y cin
  exact ⟨toNat_aluAdc_result x y cin, flagsAre_aluAdc x y cin, aluAdc_false x y⟩

/-- Settles O17, by the result and the flags of sub; cp is by definition sub's flags. -/
theorem aluSubAndCpFormula : Obligations.AluSubAndCpFormula := by
  intro x y
  exact ⟨toNat_aluSub_result x y, flagsAre_aluSub x y, rfl⟩

/-- Settles O18: the literal C is "result at least x", which `le_aluSbc_result_iff` restates in t = y + carry_in. -/
theorem aluSbcFormula : Obligations.AluSbcFormula := by
  intro x y cin
  obtain ⟨-, -, -, hcarry⟩ := flagsAre_aluSbc x y cin
  exact ⟨toNat_aluSbc_result x y cin, flagsAre_aluSbc x y cin, hcarry.trans (le_aluSbc_result_iff x y cin)⟩

/-- Settles O19: the results bit by bit, and the flags with the constant half carry of each function. -/
theorem aluLogicFormula : Obligations.AluLogicFormula := by
  intro x y
  exact ⟨fun _ => BitVec.getLsbD_and, fun _ => BitVec.getLsbD_or, fun _ => BitVec.getLsbD_xor,
    flagsAre_aluAnd x y, flagsAre_aluOr x y, flagsAre_aluXor x y⟩

end

section
/-! PROOFS. The family of 43_ld16_imm.md: LD rr,d16 step by step (R120). -/

namespace Sys2Proof.Machine

/-- The same core inside an instruction: PC at `pc`, the micro-ops `es` pending, the byte store holding what the
environment has put there since (20_memory.md R42). -/
def State.midway (s : State) (pc : Addr) (es : List MicroOp) (m : Memory) : State :=
  { s with pc := pc, queue := es, mem := m }

section
variable (s : State) (pc : Addr) (es : List MicroOp) (m : Memory)

theorem State.getReg_midway (r : Reg8) : (s.midway pc es m).getReg r = s.getReg r := by cases r <;> rfl

theorem State.setReg_midway (r : Reg8) (v : Byte) :
    (s.midway pc es m).setReg r v = (s.setReg r v).midway pc es m := by cases r <;> rfl

theorem State.getReg_withFault (x : Option FaultRecord) (r : Reg8) : { s with fault := x }.getReg r = s.getReg r := by
  cases r <;> rfl

variable {s} (hf : s.fault = none) (r : Reg8)
include hf

/-- A pending load whose address is accepted: the byte of the store as it now is goes to the register
(40_execution_engine.md R74). -/
theorem step_midway_loadImm8 (ha : s.accepts pc = true) :
    step (s.midway pc (.loadImm8 r :: es) m) = .next ((s.setReg r (m.read pc.toNat)).midway (pc + 1) es m) := by
  obtain ⟨hload, -, -⟩ := drainingStepExecutesFrontEntry (s.midway pc (.loadImm8 r :: es) m) es hf
  obtain ⟨-, haccepted, -⟩ := hload r rfl
  rw [haccepted ha, State.setReg_midway]
  rfl

/-- A pending load whose address is rejected: BusFault, the registers and F as they were (60_exceptions.md R157). -/
theorem step_midway_loadImm8_rejected (ha : s.accepts pc = false) :
    ∃ u, step (s.midway pc (.loadImm8 r :: es) m) = .fault (.busFault pc .read u) ∧
      (∀ q, u.getReg q = s.getReg q) ∧ u.f = s.f :=
  ⟨_, step_loadImm8_rejected hf rfl ha, fun q => (State.getReg_withFault _ _ q).trans (s.getReg_midway _ _ _ q), rfl⟩

end

/-- The first step of LD rr,d16 writes PC and Q alone: the two loads are pending, low register first. -/
theorem step_ld16Instr {s : State} {p : Pair} (hs : s.AtBoundary)
    (hd : decodeOpcode (s.byteAt s.pc) = some (ld16Instr p)) (ha : s.accepts s.pc = true) :
    step s = .next (s.midway (s.pc + 1) [.loadImm8 p.loReg, .loadImm8 p.hiReg] s.mem) := by
  obtain ⟨hq, hf⟩ := hs
  rw [step_mapped hf hq ha hd, exec_ld16Instr, load16, State.enqueue, s.advancePc_queue, hq]
  rfl

end Sys2Proof.Machine
end

section
open Sys2Proof Sys2Proof.Machine

/-- Settles O32: one lemma per step, the second and the third by the same law of a pending load; the two register writes
are then one write of the pair. -/
theorem loadPairThreeSteps : Obligations.LoadPairThreeSteps := by
  rintro p s _ _ m1 m2 hs hd rfl rfl
  obtain ⟨hq, hf⟩ := hs
  have hf2 : (s.setReg p.loReg (m1.read (s.pc + 1).toNat)).fault = none := (s.setReg_fault p.loReg _).trans hf
  have hacc2 : (s.setReg p.loReg (m1.read (s.pc + 1).toNat)).accepts (s.pc + 2) = s.accepts (s.pc + 2) :=
    s.accepts_setReg p.loReg _ _
  have hpc (k : Addr) : s.pc + k + 1 = s.pc + (k + 1) := BitVec.add_assoc ..
  refine ⟨step_ld16Instr ⟨hq, hf⟩ hd, fun ha => ⟨_, step_fetch_rejected hf hq ha, rfl⟩, fun ha => ?_, fun ha => ?_,
    fun ha => ?_, fun ha => ?_,
    State.accessOf_idle hf hq, State.accessOf_loadImm8 hf rfl, State.accessOf_loadImm8 hf2 rfl⟩
  · have h := step_midway_loadImm8 (s.pc + 1) [.loadImm8 p.hiReg] m1 hf p.loReg ha
    rwa [hpc] at h
  · obtain ⟨u, hu, hreg, hflags⟩ := step_midway_loadImm8_rejected (s.pc + 1) [.loadImm8 p.hiReg] m1 hf p.loReg ha
    exact ⟨u, hu, fun q _ => hreg q, hflags⟩
  · have h := step_midway_loadImm8 (s.pc + 2) [] m2 hf2 p.hiReg (hacc2.trans ha)
    rwa [hpc, s.setReg_lo_setReg_hi] at h
  · obtain ⟨u, hu, hreg, hflags⟩ := step_midway_loadImm8_rejected (s.pc + 2) [] m2 hf2 p.hiReg (hacc2.trans ha)
    refine ⟨u, hu, fun q hlo => ?_, (hreg p.loReg).trans (s.getReg_setReg_same p.loReg _),
      hflags.trans (s.setReg_f p.loReg _)⟩
    exact (hreg q).trans (s.getReg_setReg_other p.loReg q _ (List.ne_of_not_mem_cons hlo))

end

section
/-! PROOFS. The family of 44_stores.md: a store step by step (R130). -/

namespace Sys2Proof.Machine

/-- The post-modification of every store is one template: add the mode's delta to its pair, and a delta of 0 writes the
pair back as it was (44_stores.md R130). -/
theorem postModify_eq (m : StoreMode) (s : State) :
    postModify m s = s.setPair (storePair m) (s.getPair (storePair m) + storeDelta m) := by
  cases m with
  | bc => simp [storePair, storeDelta, postModify]
  | de => simp [storePair, storeDelta, postModify]
  | hlInc => rfl
  | hlDec => exact congrArg (s.setPair .hl) (BitVec.sub_eq_add_neg _ _)

theorem postModify_midway (k : StoreMode) (s : State) (pc : Addr) (es : List MicroOp) (m : Memory) :
    postModify k (s.midway pc es m) = (postModify k s).midway pc es m := by
  cases k <;> rfl

/-- The first step of a store writes the pair, PC and Q alone: the one pending write holds the address and A as they were
before the modification (44_stores.md R135). -/
theorem step_storeInstr {s : State} {k : StoreMode} (hs : s.AtBoundary)
    (hd : decodeOpcode (s.byteAt s.pc) = some (storeInstr k)) (ha : s.accepts s.pc = true) :
    step s = .next ((postModify k s).midway (s.pc + 1) [.storeMem (storeAddr k s) s.a] s.mem) := by
  obtain ⟨hq, hf⟩ := hs
  rw [step_mapped hf hq ha hd, exec_storeInstr, storeA, ← postModify_midway, State.enqueue, s.advancePc_queue, hq,
    storeAddr, s.getPair_advancePc]
  rfl

end Sys2Proof.Machine
end

section
open Sys2Proof Sys2Proof.Machine

/-- Settles O33: the first step by `step_storeInstr`, the second by the law of a pending write, whose address the
modification of the pair does not reach. -/
theorem storeTwoSteps : Obligations.StoreTwoSteps := by
  rintro k s _ m1 hs hd rfl
  obtain ⟨hq, hf⟩ := hs
  rw [← postModify_eq]
  have hf1 : (postModify k s).fault = none := (postModify_fault s k).trans hf
  have hacc : (postModify k s).accepts (storeAddr k s) = s.accepts (storeAddr k s) := postModify_accepts s k _
  have hpc : s.pc + 1 + 1 = s.pc + 2 := BitVec.add_assoc ..
  obtain ⟨-, hstore, -⟩ := drainingStepExecutesFrontEntry
    ((postModify k s).midway (s.pc + 1) [.storeMem (storeAddr k s) s.a] m1) [] hf1
  obtain ⟨haccess, haccepted, -⟩ := hstore (storeAddr k s) s.a rfl
  refine ⟨step_storeInstr ⟨hq, hf⟩ hd, fun ha => ⟨_, step_fetch_rejected hf hq ha, rfl⟩, fun ha => ?_, fun ha => ?_,
    State.accessOf_idle hf hq, haccess⟩
  · rw [← hpc]
    exact haccepted (hacc.trans ha)
  · exact ⟨_, step_storeMem_rejected hf1 rfl (hacc.trans ha), fun r _ => State.getReg_withFault _ _ r,
      postModify_f s k⟩

end

section
/-! PROOFS. The family of 45_inc16.md: INC rr step by step (R140). -/

namespace Sys2Proof.Machine

theorem State.setPair_midway (s : State) (pc : Addr) (es : List MicroOp) (m : Memory) (p : Pair) (v : Addr) :
    (s.midway pc es m).setPair p v = (s.setPair p v).midway pc es m := by
  simp only [State.setPair, State.setReg_midway]

/-- The first step of INC rr writes PC and Q alone: the one pending write holds the sum, the pair its old value
(45_inc16.md R140). -/
theorem step_inc16Instr {s : State} {p : Pair} (hs : s.AtBoundary)
    (hd : decodeOpcode (s.byteAt s.pc) = some (inc16Instr p)) (ha : s.accepts s.pc = true) :
    step s = .next (s.midway (s.pc + 1) [.writeReg16 p (s.getPair p + 1)] s.mem) := by
  obtain ⟨hq, hf⟩ := hs
  rw [step_mapped hf hq ha hd, exec_inc16Instr, incReg16, State.enqueue, s.advancePc_queue, hq, s.getPair_advancePc]
  rfl

/-- A pending pair write reaches its pair whatever the byte store accepts or now holds (40_execution_engine.md R76). -/
theorem step_midway_writeReg16 {s : State} (hf : s.fault = none) (pc : Addr) (es : List MicroOp) (m : Memory)
    (p : Pair) (v : Addr) :
    step (s.midway pc (.writeReg16 p v :: es) m) = .next ((s.setPair p v).midway (pc + 1) es m) := by
  obtain ⟨-, -, hwrite⟩ := drainingStepExecutesFrontEntry (s.midway pc (.writeReg16 p v :: es) m) es hf
  obtain ⟨-, hstep⟩ := hwrite p v rfl
  rw [hstep, State.setPair_midway]
  rfl

end Sys2Proof.Machine
end

section
open Sys2Proof Sys2Proof.Machine

/-- Settles O35: the first step by `step_inc16Instr`, the second by the law of a pending pair write, which asks nothing
of the byte store. -/
theorem incrementPairTwoSteps : Obligations.IncrementPairTwoSteps := by
  rintro p s _ m1 hs hd rfl
  obtain ⟨hq, hf⟩ := hs
  have hpc : s.pc + 1 + 1 = s.pc + 2 := BitVec.add_assoc ..
  refine ⟨step_inc16Instr ⟨hq, hf⟩ hd, fun ha => ⟨_, step_fetch_rejected hf hq ha, rfl⟩,
    State.accessOf_idle hf hq, State.accessOf_writeReg16 hf rfl, ?_⟩
  rw [← hpc]
  exact step_midway_writeReg16 hf (s.pc + 1) [] m1 p (s.getPair p + 1)

end

section
/-! PROOFS. The family of 60_exceptions.md: the two fatal conditions (R150). -/

namespace Sys2Proof.Machine

/-- A step that answers a next state asked for no access the byte store rejects (20_memory.md R32, R37). -/
theorem NextCase.accepts_access {s t : State} (h : NextCase s t) {x : Access} (hx : s.accessOf = some x) :
    s.accepts x.addr = true := by
  cases h with
  | dispatched i hf hq ha _ _ =>
    obtain rfl := Option.some.inj ((State.accessOf_idle hf hq).symm.trans hx)
    exact ha
  | loaded r es hf hq ha _ =>
    obtain rfl := Option.some.inj ((State.accessOf_loadImm8 hf hq).symm.trans hx)
    exact ha
  | stored a v es hf hq ha _ =>
    obtain rfl := Option.some.inj ((State.accessOf_storeMem hf hq).symm.trans hx)
    exact ha
  | wrotePair p v es hf hq _ => cases (State.accessOf_writeReg16 hf hq).symm.trans hx

/-- Condition (b) is fatal whatever the step is (60_exceptions.md R150, R152). -/
theorem step_fault_of_access_rejected {s : State} {x : Access} (hx : s.accessOf = some x)
    (hr : s.accepts x.addr = false) : ∃ f, step s = .fault f := by
  rcases step_cases s with ⟨t, -, hnext⟩ | ⟨f, hfault, -⟩
  · exact absurd ((hnext.accepts_access hx).symm.trans hr) Bool.noConfusion
  · exact ⟨f, hfault⟩

/-- A core that is not stopped faults under condition (a), an unmapped opcode byte fetched, or (b), its access rejected
(60_exceptions.md R150). -/
theorem FaultCase.unmapped_or_access_rejected {s : State} {f : Fault} (h : FaultCase s f) (hrun : s.fault = none) :
    (s.queue = [] ∧ s.accepts s.pc = true ∧ decodeOpcode (s.byteAt s.pc) = none) ∨
      (∃ x, s.accessOf = some x ∧ s.accepts x.addr = false) := by
  cases h with
  | latched r hf _ => cases hrun.symm.trans hf
  | unmapped hf hq ha hd _ => exact .inl ⟨hq, ha, hd⟩
  | fetchRejected hf hq ha _ => exact .inr ⟨_, State.accessOf_idle hf hq, ha⟩
  | loadRejected r es hf hq ha _ => exact .inr ⟨_, State.accessOf_loadImm8 hf hq, ha⟩
  | storeRejected a v es hf hq ha _ => exact .inr ⟨_, State.accessOf_storeMem hf hq, ha⟩

end Sys2Proof.Machine
end

section
open Sys2Proof Sys2Proof.Machine

/-- Settles O40: the cases of a failing step are the two conditions, each condition is fatal, and `exec_next` for dispatch. -/
theorem twoFatalConditionsAndNoOther : Obligations.TwoFatalConditionsAndNoOther := by
  refine ⟨fun s hrun => ⟨⟨?_, ?_⟩, ?_⟩, fun i s => ?_⟩
  · rintro ⟨f, hfault⟩
    exact (step_fault_cases hfault).unmapped_or_access_rejected hrun
  · rintro (⟨hq, ha, hd⟩ | ⟨x, hx, hr⟩)
    · exact ⟨_, step_unmapped hrun hq ha hd⟩
    · exact step_fault_of_access_rejected hx hr
  · rcases step_cases s with ⟨t, hnext, -⟩ | ⟨f, hfault, -⟩
    · exact .inr ⟨t, hnext⟩
    · exact .inl ⟨f, hfault⟩
  · obtain ⟨t, hexec, -⟩ := exec_next i s
    exact ⟨t, hexec⟩

end

section
/-! PROOFS. The family of 30_encoding.md: decoder and encoder, on one instruction and on sequences (R51, R57, R58). -/

namespace Sys2Proof

theorem decodeOpcode_eq_some_iff {b : Byte} {i : Instr} : decodeOpcode b = some i ↔ opcodeOf i = b :=
  ⟨opcodeOf_of_decodeOpcode, fun h => h ▸ decodeOpcode_opcodeOf i⟩

/-- What a successful `decode` read: a mapped opcode byte, and after it the bytes that opcode's length asks for. -/
theorem decode_eq_ok {bs rest : List Byte} {x : Laid} (h : decode bs = .ok (x, rest)) :
    ∃ more, bs = opcodeOf x.op :: more ∧ x.op.length - 1 ≤ more.length ∧
      x.tail = more.take (x.op.length - 1) ∧ rest = more.drop (x.op.length - 1) := by
  cases bs with
  | nil => cases h
  | cons op more =>
    cases hop : decodeOpcode op with
    | none => simp [decode, hop] at h
    | some i =>
      obtain rfl := opcodeOf_of_decodeOpcode hop
      by_cases hlen : i.length - 1 ≤ more.length
      · have hok : decode (opcodeOf i :: more) = .ok (⟨i, more.take (i.length - 1)⟩, more.drop (i.length - 1)) := by
          simp only [decode, hop]
          exact if_pos hlen
        cases hok.symm.trans h
        exact ⟨more, rfl, hlen, rfl, rfl⟩
      · have herr : decode (opcodeOf i :: more) = .error (.truncated i) := by
          simp only [decode, hop]
          exact if_neg hlen
        cases herr.symm.trans h

/-- One more unit of fuel reads one more instruction. -/
theorem disassemble_succ {bs more : List Byte} {x : Laid} (h : decode bs = .ok (x, more)) (fuel : Nat) :
    disassemble (fuel + 1) bs = (disassemble fuel more).map (x :: ·) := by
  cases bs with
  | nil => cases h
  | cons op rest => simp only [disassemble, h]

/-- Every instruction has its opcode byte, so a sequence has no more instructions than bytes. -/
theorem length_le_length_assemble (xs : List Laid) : xs.length ≤ (assemble xs).length := by
  induction xs with
  | nil => exact Nat.le_refl 0
  | cons x xs ih =>
    simp only [assemble, encode, List.length_append, List.length_cons]
    omega

/-- Any fuel that counts the instructions is enough to read an assembled sequence back. -/
theorem disassemble_assemble {xs : List Laid} {fuel : Nat} (hwf : ∀ x ∈ xs, x.wellFormed = true)
    (hfuel : xs.length ≤ fuel) : disassemble fuel (assemble xs) = some xs := by
  induction xs generalizing fuel with
  | nil => cases fuel <;> rfl
  | cons x xs ih =>
    obtain ⟨hx, hxs⟩ := List.forall_mem_cons.1 hwf
    obtain ⟨k, rfl⟩ := Nat.exists_eq_add_of_le' hfuel
    rw [List.length_cons, ← Nat.add_assoc, assemble, disassemble_succ (decode_encode x _ hx),
      ih hxs (Nat.le_add_left xs.length k), Option.map_some]

end Sys2Proof
end

section
open Sys2Proof Sys2Proof.Machine

/-- Settles O2, by induction on the sequence: each instruction costs one unit of fuel, and the bytes give enough. -/
theorem disassembleAssembleReturnsSequence : Obligations.DisassembleAssembleReturnsSequence := by
  intro xs hwf
  exact disassemble_assemble hwf (length_le_length_assemble xs)

/-- Settles O1, by `decode_encode`. -/
theorem decodeEncodeReturnsLaidInstruction : Obligations.DecodeEncodeReturnsLaidInstruction := by
  intro x rest hx
  exact decode_encode x rest hx

/-- Settles O3: the decoder splits the bytes after the opcode at the instruction's length. -/
theorem decodedBytesAreReencoded : Obligations.DecodedBytesAreReencoded := by
  intro bs rest x h
  obtain ⟨more, rfl, hlen, htail, rfl⟩ := decode_eq_ok h
  constructor
  · have hpos := length_pos x.op
    rw [Laid.wellFormed, htail, List.length_take, beq_iff_eq]
    omega
  · rw [encode, htail, List.cons_append, List.take_append_drop]

/-- Settles O4: decoder and encoder are inverse on opcode bytes. -/
theorem opcodeByteMeansOneInstruction : Obligations.OpcodeByteMeansOneInstruction := by
  intro b i
  exact decodeOpcode_eq_some_iff

/-- Settles O5, by evaluating the decoder at each of the 256 bytes. -/
theorem unmappedBytesAreThoseListed : Obligations.UnmappedBytesAreThoseListed := by
  unfold Obligations.UnmappedBytesAreThoseListed
  decide +kernel

/-- Settles O6, by evaluating the decoder at the nine bytes. -/
theorem sampleOpcodesDecode : Obligations.SampleOpcodesDecode := by
  unfold Obligations.SampleOpcodesDecode
  decide

end

section
/-! PROOFS. What every step keeps: the frame of a step that succeeds, the state a failing step leaves (60_exceptions.md R157)
and the invariant (10_state.md R23). -/

namespace Sys2Proof.Machine

/-! ### the frame of a step -/

/-- `exec_next` for a dispatch action whose next state is at hand. -/
theorem exec_frame {i : Instr} {s t : State} (h : exec i s = .next t) :
    t.pc = s.pc ∧ t.sp = s.sp ∧ t.fault = s.fault ∧ t.mem = s.mem ∧ t.rejected = s.rejected ∧
      ∃ es, t.queue = s.queue ++ es ∧ es.length ≤ 2 ∧ queueWellFormed es = true := by
  obtain ⟨u, hu, hframe⟩ := exec_next i s
  cases h.symm.trans hu
  exact hframe

/-- Every step that succeeds advances PC by one and leaves SP, FAULT and the accepted addresses. -/
theorem NextCase.frame {s t : State} (h : NextCase s t) :
    t.fault = none ∧ t.pc = s.pc + 1 ∧ t.sp = s.sp ∧ t.rejected = s.rejected := by
  cases h with
  | dispatched i hf _ _ _ he =>
    obtain ⟨hpc, hsp, hfault, -, hrej, -⟩ := exec_frame he
    exact ⟨hfault.trans hf, hpc, hsp, hrej⟩
  | loaded r es hf _ _ ht => simp [ht, hf, inc16]
  | stored a v es hf _ _ ht => simp [ht, hf, inc16]
  | wrotePair p v es hf _ ht => simp [ht, hf, inc16]

/-- A failing step leaves everything but PC as it was, and latches the record it returns. -/
theorem FaultCase.left_eq {s : State} {f : Fault} (h : FaultCase s f) :
    f.left = { s with pc := f.left.pc, fault := some f.record } := by
  cases h with
  | latched r hf hrec => rw [hrec, FaultRecord.left_report, FaultRecord.record_report, ← hf]
  | unmapped _ _ _ _ hrec => rw [hrec]; rfl
  | fetchRejected _ _ _ hrec => rw [hrec]; rfl
  | loadRejected _ _ _ _ _ hrec => rw [hrec]; rfl
  | storeRejected _ _ _ _ _ _ hrec => rw [hrec]; rfl

/-! ### the invariant after a step that succeeds -/

/-- What is left of a queue a run can hold, after its front entry, is again one. -/
theorem queueWellFormed_tail {e : MicroOp} {es : List MicroOp} (h : queueWellFormed (e :: es) = true) :
    queueWellFormed es = true := by
  match e, es, h with
  | _, [], _ => rfl
  | .loadImm8 lo, [.loadImm8 hi], h =>
    simp only [queueWellFormed, Bool.or_eq_true, Bool.and_eq_true] at h ⊢
    tauto

theorem NextCase.wf_mem {s t : State} (h : NextCase s t) (hm : s.mem.wf = true) : t.mem.wf = true := by
  cases h with
  | dispatched i _ _ _ _ he =>
    obtain ⟨-, -, -, hmem, -⟩ := exec_frame he
    exact hmem ▸ hm
  | loaded r es _ _ _ ht => simpa [ht] using hm
  | stored a v es _ _ _ ht => exact ht ▸ s.wf_setByte a v hm
  | wrotePair p v es _ _ ht => simpa [ht] using hm

theorem NextCase.wf_queue {s t : State} (h : NextCase s t) (hq : queueWellFormed s.queue = true) :
    queueWellFormed t.queue = true := by
  cases h with
  | dispatched i _ hempty _ _ he =>
    obtain ⟨-, -, -, -, -, es, hes, -, hwf⟩ := exec_frame he
    rwa [hes, s.advancePc_queue, hempty, List.nil_append]
  | loaded r es _ hcons _ ht => simpa [ht, hcons] using queueWellFormed_tail (hcons ▸ hq)
  | stored a v es _ hcons _ ht => simpa [ht, hcons] using queueWellFormed_tail (hcons ▸ hq)
  | wrotePair p v es _ hcons ht => simpa [ht, hcons] using queueWellFormed_tail (hcons ▸ hq)

theorem State.faultConsistent_of_running {s : State} (hf : s.fault = none) : s.FaultConsistent := by
  rw [State.FaultConsistent, hf]
  trivial

theorem NextCase.inv {s t : State} (h : NextCase s t) (hs : s.Inv) : t.Inv := by
  obtain ⟨hrun, -⟩ := h.frame
  exact ⟨h.wf_mem hs.mem, h.wf_queue hs.queue, State.faultConsistent_of_running hrun⟩

/-! ### the invariant after a step that fails -/

/-- The record a failing step latches fits the state it leaves. -/
theorem FaultCase.faultConsistent {s : State} {f : Fault} (h : FaultCase s f) (hs : s.FaultConsistent) :
    f.left.FaultConsistent := by
  cases h with
  | latched r hf hrec => rwa [hrec, FaultRecord.left_report]
  | unmapped _ hq _ hd hrec => rw [hrec]; exact ⟨hd, rfl, hq⟩
  | fetchRejected _ hq ha hrec => rw [hrec]; exact ⟨ha, rfl, .inl hq⟩
  | loadRejected r es _ hq ha hrec => rw [hrec]; exact ⟨ha, rfl, .inr ⟨r, es, hq⟩⟩
  | storeRejected a v es _ hq ha hrec => rw [hrec]; exact ⟨ha, v, es, hq⟩

theorem FaultCase.inv {s : State} {f : Fault} (h : FaultCase s f) (hs : s.Inv) : f.left.Inv := by
  have hfault := h.faultConsistent hs.fault
  rw [h.left_eq] at hfault ⊢
  exact ⟨hs.mem, hs.queue, hfault⟩

/-- The contents of Q that a run can hold are at most two entries, none of them a load of A (10_state.md R22, R23). -/
theorem length_le_and_wellFormed_of_queueWellFormed {es : List MicroOp} (h : queueWellFormed es = true) :
    es.length ≤ 2 ∧ ∀ e ∈ es, e.wellFormed = true := by
  match es, h with
  | [], _ => simp
  | [.loadImm8 r], h => revert h; cases r <;> decide
  | [.storeMem _ _], _ => simp [MicroOp.wellFormed]
  | [.writeReg16 _ _], _ => simp [MicroOp.wellFormed]
  | [.loadImm8 lo, .loadImm8 hi], h => revert h; cases lo <;> cases hi <;> decide

end Sys2Proof.Machine
end

section
open Sys2Proof Sys2Proof.Machine

/-- Settles O49, by the cases of a step: `NextCase.inv` where it succeeds, `FaultCase.inv` where it fails. -/
theorem stepKeepsInvariant : Obligations.StepKeepsInvariant := by
  intro s hs
  exact ⟨fun t ht => (step_next_cases ht).inv hs, fun f hf => (step_fault_cases hf).inv hs⟩

/-- Settles O50, by the contents of Q that the invariant allows. -/
theorem queueHoldsAtMostTwo : Obligations.QueueHoldsAtMostTwo := by
  intro s hs
  exact length_le_and_wellFormed_of_queueWellFormed hs.queue

end

section
/-! PROOFS. Construction (10_state.md R29), register-file arithmetic (R20), the byte view of F (R12), and the bytes of the
store (20_memory.md R30, R32). -/

namespace Sys2Proof.Machine

section
variable (m : Memory) (rj : List AddrRange)

theorem getReg_construct (r : Reg8) : (State.construct m rj).getReg r = 0x00 := by cases r <;> rfl

theorem getPair_construct (p : Pair) : (State.construct m rj).getPair p = 0x0000 := by
  rw [State.getPair, getReg_construct, getReg_construct]
  rfl

theorem test_construct (flag : FlagName) : (State.construct m rj).f.test flag = false := by cases flag <;> rfl

end

theorem inv_construct {m : Memory} (rj : List AddrRange) (hm : m.wf = true) : (State.construct m rj).Inv :=
  ⟨hm, rfl, State.faultConsistent_of_running rfl⟩

theorem toNat_inc16 (v : Addr) : (inc16 v).toNat = (v.toNat + 1) % 65536 := BitVec.toNat_add v 1

theorem toNat_dec16 (v : Addr) : (dec16 v).toNat = (v.toNat + 65535) % 65536 := by
  rw [Nat.add_comm]
  exact BitVec.toNat_sub v 1

theorem toNat_inc8 (v : Byte) : (inc8 v).toNat = (v.toNat + 1) % 256 := BitVec.toNat_add v 1

theorem Flags.toNat_toByte (f : Flags) :
    f.toByte.toNat = 128 * f.z.toNat + 64 * f.n.toNat + 32 * f.h.toNat + 16 * f.c.toNat := by
  have all : ∀ z n h c : Bool,
      (Flags.mk z n h c).toByte.toNat = 128 * z.toNat + 64 * n.toNat + 32 * h.toNat + 16 * c.toNat := by
    decide
  exact all f.z f.n f.h f.c

theorem Flags.ofByte_toByte (f : Flags) : Flags.ofByte f.toByte = f := by
  have all : ∀ z n h c : Bool, Flags.ofByte (Flags.mk z n h c).toByte = ⟨z, n, h, c⟩ := by decide
  exact all f.z f.n f.h f.c

/-- The layout of the byte view, bit by bit from bit 0 (10_state.md R12). -/
theorem Flags.getLsbD_toByte (f : Flags) (k : Fin 8) :
    f.toByte.getLsbD k = ![false, false, false, false, f.c, f.h, f.n, f.z] k := by
  have all : ∀ (z n h c : Bool) (k : Fin 8),
      (Flags.mk z n h c).toByte.getLsbD k = ![false, false, false, false, c, h, n, z] k := by decide
  exact all f.z f.n f.h f.c k

theorem Flags.toByte_ofByte (v : Byte) : (Flags.ofByte v).toByte = v &&& 0xF0 := by
  refine BitVec.eq_of_getLsbD_eq fun k hk => ?_
  rw [(Flags.ofByte v).getLsbD_toByte ⟨k, hk⟩, BitVec.getLsbD_and]
  interval_cases k <;> simp [Flags.ofByte]

/-! ### addresses outside the address space -/

theorem Memory.read_of_addressSpace_le {m : Memory} (hm : m.wf = true) {a : Nat} (ha : Config.addressSpace ≤ a) :
    m.read a = Config.unlistedByte := by
  induction m with
  | nil => rfl
  | cons c m ih =>
    obtain ⟨k, w⟩ := c
    obtain ⟨hk, -, -, hm⟩ := Memory.wf_cons.1 hm
    rw [Memory.read, if_neg (Nat.ne_of_gt (Nat.lt_of_lt_of_le hk ha)), ih hm]

end Sys2Proof.Machine
end

section
open Sys2Proof Sys2Proof.Machine

/-- Settles O7, by the register, pair and flag a constructed core reads as; the other fields are its definition. -/
theorem constructionGivesResetState : Obligations.ConstructionGivesResetState :=
  ⟨fun m rj => ⟨getReg_construct m rj, getPair_construct m rj, test_construct m rj, rfl, rfl, rfl, rfl, rfl, rfl⟩, rfl⟩

/-- Settles O8: a constructed core is not stopped and its queue is empty, so its first step fetches at PC. -/
theorem firstStepFetchesAtEntryPoint : Obligations.FirstStepFetchesAtEntryPoint := by
  intro m rj
  exact ⟨State.accessOf_idle rfl rfl, fun i ha hd => step_mapped rfl rfl ha hd⟩

/-- Settles O9, by `inv_construct`. -/
theorem constructionMeetsInvariant : Obligations.ConstructionMeetsInvariant :=
  ⟨fun _ rj hm => inv_construct rj hm, inv_construct [] Memory.wf_nil⟩

/-- Settles O12: the helpers are additions and a subtraction of words, which wrap. -/
theorem registerArithmeticWraps : Obligations.RegisterArithmeticWraps := by
  intro v b
  exact ⟨toNat_inc16 v, toNat_dec16 v, toNat_inc8 b⟩

/-- Settles O14, by the value of the byte view and its two round trips. -/
theorem flagByteView : Obligations.FlagByteView := by
  intro f v
  exact ⟨f.toNat_toByte, f.ofByte_toByte, Flags.toByte_ofByte v⟩

/-- Settles O45: `Memory.wf_write` below the top address, and `Memory.ext_of_read`; above it both stores are unlisted. -/
theorem canonicalMemory : Obligations.CanonicalMemory := by
  refine ⟨fun m a v hm => Memory.wf_write a.toNat v a.isLt hm, fun m n hm hn h => ?_⟩
  refine Memory.ext_of_read hm hn fun a => ?_
  by_cases ha : a < Config.addressSpace
  · have hread := h (BitVec.ofNat 16 a)
    rwa [BitVec.toNat_ofNat, show a % 2 ^ 16 = a from Nat.mod_eq_of_lt ha] at hread
  · rw [Memory.read_of_addressSpace_le hm (Nat.le_of_not_lt ha), Memory.read_of_addressSpace_le hn (Nat.le_of_not_lt ha)]

/-- Settles O46, by `Memory.read_write`. -/
theorem readAfterWrite : Obligations.ReadAfterWrite := by
  intro m a b v hm
  rw [Memory.read_write a.toNat b.toNat v hm]
  simp only [BitVec.toNat_inj]

/-- Settles O52: an environment write is a write of the byte store. -/
theorem environmentChangesOnlyBytes : Obligations.EnvironmentChangesOnlyBytes := by
  intro s a v
  exact ⟨s.coreOf_setByte a v, fun hm b => s.byteAt_setByte a b v hm⟩

end

section
/-! PROOFS. sbc beside sub (41_alu.md R94; 90_conflicts.md C3). -/

namespace Sys2Proof.Machine

/-- With no carry-in sbc is sub in all but C, which is the literal "result at least x". -/
theorem aluSbc_false (x y : Byte) :
    aluSbc x y false = { aluSub x y with
      flags := { (aluSub x y).flags with c := decide ((aluSub x y).result.toNat ≥ x.toNat) } } := by
  have hcin : (carryIn false : Int) = 0 := rfl
  have hy : BitVec.ofInt 8 y.toNat = y := by
    rw [BitVec.ofInt_natCast, BitVec.ofNat_toNat, BitVec.setWidth_eq]
  simp only [aluSbc, aluSub, hy, hcin, Int.sub_zero, flagsOf_eq]
  rfl

end Sys2Proof.Machine
end

section
open Sys2Proof Sys2Proof.Machine

/-- Settles O20, by `aluSbc_false` and the carry of sbc and of sub as numbers, with t = y. -/
theorem sbcWithoutCarryDiffersFromSubOnlyAtZero : Obligations.SbcWithoutCarryDiffersFromSubOnlyAtZero := by
  intro x y
  obtain ⟨-, -, hsbc⟩ := aluSbcFormula x y false
  obtain ⟨-, ⟨-, -, -, hsub⟩, -⟩ := aluSubAndCpFormula x y
  have hy := y.isLt
  simp only [Bool.toNat_false, Nat.add_zero] at hsbc
  refine ⟨?_, ?_, ?_, ?_, fun hne => ?_, fun hzero => ⟨?_, ?_⟩⟩
  · rw [aluSbc_false]
  · rw [aluSbc_false]
  · rw [aluSbc_false]
  · rw [aluSbc_false]
  · have hpos : y.toNat ≠ 0 := fun h => hne (BitVec.eq_of_toNat_eq h)
    rw [Bool.eq_iff_iff, hsbc, hsub]
    omega
  · rw [hsbc, hzero]
    exact .inr (.inr rfl)
  · rw [← Bool.not_eq_true, hsub, hzero]
    exact Nat.not_lt_zero _

end

section
/-! PROOFS. The families 41_alu.md to 45_inc16.md at dispatch (R99, R110, R111, R120, R130, R140): what each class of
instructions writes, and what no dispatch action touches. -/

namespace Sys2Proof.Machine

/-! ### frames -/

theorem sameBytes_of_mem_eq {s t : State} (h : t.mem = s.mem) : SameBytes s t := by
  intro a
  rw [State.byteAt, State.byteAt, h]

theorem exec_dispatchFrame {i : Instr} {s t : State} (h : exec i s = .next t) : DispatchFrame s t := by
  obtain ⟨hpc, hsp, hfault, hmem, hrej, -⟩ := exec_frame h
  exact ⟨hpc, hsp, hfault, hrej, sameBytes_of_mem_eq hmem⟩

theorem regsBut_setReg (s : State) (r : Reg8) (v : Byte) : RegsBut [r] s (s.setReg r v) := by
  intro q hq
  exact s.getReg_setReg_other r q v (List.ne_of_not_mem_cons hq)

theorem dispatchFrame_setReg (s : State) (r : Reg8) (v : Byte) : DispatchFrame s (s.setReg r v) :=
  ⟨s.setReg_pc r v, s.setReg_sp r v, s.setReg_fault r v, s.setReg_rejected r v, s.byteAt_setReg r v⟩

/-- A store's post-modification writes the two registers of its pair at most. -/
theorem regsBut_postModify (s : State) (m : StoreMode) :
    RegsBut [(storePair m).hiReg, (storePair m).loReg] s (postModify m s) := by
  rw [postModify_eq]
  exact regsBut_setPair s (storePair m) _

theorem getPair_postModify (s : State) (m : StoreMode) :
    (postModify m s).getPair (storePair m) = s.getPair (storePair m) + storeDelta m := by
  rw [postModify_eq, State.getPair_setPair_same]

/-! ### the flags at dispatch (10_state.md, section 2) -/

section
variable (s : State) (g : Flags)

theorem State.setReg_setFlags (r : Reg8) (v : Byte) :
    (s.setFlags g).setReg r v = (s.setReg r v).setFlags g := by cases r <;> rfl

theorem State.setPair_setFlags (p : Pair) (v : Addr) :
    (s.setFlags g).setPair p v = (s.setPair p v).setFlags g := by cases p <;> rfl

theorem State.enqueue_setFlags (es : List MicroOp) : (s.setFlags g).enqueue es = (s.enqueue es).setFlags g := rfl

theorem postModify_setFlags (m : StoreMode) : postModify m (s.setFlags g) = (postModify m s).setFlags g := by
  cases m <;> rfl

/-- F is overwritten, so its old value is forgotten (41_alu.md R90). -/
theorem accumulate_setFlags (out : AluOut) : accumulate out (s.setFlags g) = accumulate out s := by
  rw [accumulate, State.setReg_setFlags]
  rfl

end

theorem isAlu_aluInstr (op : AluOp) (r : Reg8) : IsAlu (aluInstr op r) := ⟨op, r, rfl⟩

/-- A dispatch action that is not the ALU's neither reads nor writes F. -/
theorem exec_setFlags_of_not_isAlu {i : Instr} {s t : State} (hi : ¬ IsAlu i) (h : exec i s = .next t) (g : Flags) :
    t.f = s.f ∧ exec i (s.setFlags g) = .next (t.setFlags g) := by
  obtain ⟨k, rfl⟩ := exists_class i
  cases k with
  | ld dst r =>
    obtain rfl := Host.Outcome.next.inj ((exec_ldInstr dst r s).symm.trans h)
    exact ⟨s.setReg_f dst _, (exec_ldInstr dst r _).trans (by simp [load8, State.setReg_setFlags])⟩
  | inc8 r =>
    obtain rfl := Host.Outcome.next.inj ((exec_inc8Instr r s).symm.trans h)
    exact ⟨s.setReg_f r _, (exec_inc8Instr r _).trans (by simp [incReg8, State.setReg_setFlags])⟩
  | alu op r => exact absurd (isAlu_aluInstr op r) hi
  | ld16 p =>
    obtain rfl := Host.Outcome.next.inj ((exec_ld16Instr p s).symm.trans h)
    exact ⟨rfl, exec_ld16Instr p _⟩
  | store m =>
    obtain rfl := Host.Outcome.next.inj ((exec_storeInstr m s).symm.trans h)
    exact ⟨postModify_f _ m, (exec_storeInstr m _).trans
      (by simp [storeA, storeAddr, State.enqueue_setFlags, postModify_setFlags])⟩
  | inc16 p =>
    obtain rfl := Host.Outcome.next.inj ((exec_inc16Instr p s).symm.trans h)
    exact ⟨rfl, (exec_inc16Instr p _).trans (by simp [incReg16, State.enqueue_setFlags])⟩

/-- Only adc and sbc look at the carry-in. -/
theorem aluOutput_congr_carry {op : AluOp} {cin cin' : Bool} (h : op = .adc ∨ op = .sbc → cin' = cin) (x y : Byte) :
    aluOutput op x y cin' = aluOutput op x y cin := by
  cases op with
  | adc => rw [h (.inl rfl)]
  | sbc => rw [h (.inr rfl)]
  | add | sub | and | xor | or | cp => rfl

theorem exec_aluInstr_setFlags {op : AluOp} {s : State} {g : Flags} (h : op = .adc ∨ op = .sbc → g.c = s.f.c) (r : Reg8) :
    exec (aluInstr op r) (s.setFlags g) = exec (aluInstr op r) s := by
  rw [exec_aluInstr, exec_aluInstr, accumulate_setFlags, State.getReg_setFlags, State.setFlags_a, State.setFlags_f,
    aluOutput_congr_carry h]

/-- A Draining step neither reads nor writes F. -/
theorem NextCase.setFlags_of_draining {s t : State} (h : NextCase s t) (hq : s.queue ≠ []) (g : Flags) :
    t.f = s.f ∧ step (s.setFlags g) = .next (t.setFlags g) := by
  cases h with
  | dispatched i _ hempty _ _ _ => exact absurd hempty hq
  | loaded r es hf hcons ha ht =>
    refine ⟨by simp [ht], (step_loadImm8 (s := s.setFlags g) hf hcons ha).trans ?_⟩
    rw [ht, State.setReg_setFlags]
    rfl
  | stored a v es hf hcons ha ht =>
    refine ⟨by simp [ht], (step_storeMem (s := s.setFlags g) hf hcons ha).trans ?_⟩
    rw [ht]
    rfl
  | wrotePair p v es hf hcons ht =>
    refine ⟨by simp [ht], (step_writeReg16 (s := s.setFlags g) hf hcons).trans ?_⟩
    rw [ht, State.setPair_setFlags]
    rfl

end Sys2Proof.Machine
end

section
open Sys2Proof Sys2Proof.Machine

/-- Settles O11, by the laws of a register read after a register write. -/
theorem registersAreIndependent : Obligations.RegistersAreIndependent := by
  intro s r v
  exact ⟨s.getReg_setReg_same r v, regsBut_setReg s r v, dispatchFrame_setReg s r v, s.setReg_f r v, s.setReg_queue r v⟩

/-- Settles O21: the eight operations are one template, which writes A and then F. -/
theorem aluInstructionsWriteAccumulatorAndFlags : Obligations.AluInstructionsWriteAccumulatorAndFlags := by
  intro op r s
  have h := exec_aluInstr op r s
  exact ⟨_, h, s.getReg_setReg_same .a _, rfl, fun q hq => (State.getReg_setFlags _ _ q).trans (regsBut_setReg s .a _ q hq),
    (State.setFlags_queue _ _).trans (s.setReg_queue .a _), exec_dispatchFrame h⟩

/-- Settles O22: LD r,r' is one register write. -/
theorem loadRegisterCopiesSource : Obligations.LoadRegisterCopiesSource := by
  intro dst src s
  exact ⟨_, exec_ldInstr dst src s, s.getReg_setReg_same dst _, regsBut_setReg s dst _, s.setReg_f dst _,
    s.setReg_queue dst _, dispatchFrame_setReg s dst _⟩

/-- Settles O23: INC r is one register write, of `inc8`. -/
theorem incrementRegisterWritesNoFlag : Obligations.IncrementRegisterWritesNoFlag := by
  intro r s
  refine ⟨_, exec_inc8Instr r s, ?_, regsBut_setReg s r _, s.setReg_f r _, s.setReg_queue r _, dispatchFrame_setReg s r _⟩
  rw [s.getReg_setReg_same, toNat_inc8]

/-- Settles O24: the action writes Q alone. -/
theorem loadPairEnqueuesLowThenHigh : Obligations.LoadPairEnqueuesLowThenHigh := by
  intro p s
  have h := exec_ld16Instr p s
  exact ⟨_, h, rfl, fun r _ => s.getReg_enqueue _ r, rfl, exec_dispatchFrame h⟩

/-- Settles O25: the entry is appended to the unmodified state, and the modification of the pair leaves Q. -/
theorem storeCapturesThenModifiesPair : Obligations.StoreCapturesThenModifiesPair := by
  intro m s
  have h := exec_storeInstr m s
  refine ⟨_, h, postModify_queue _ m, ?_, fun r hr => ?_, postModify_f _ m, exec_dispatchFrame h⟩
  · rw [getPair_postModify, s.getPair_enqueue]
  · rw [regsBut_postModify _ m r hr, s.getReg_enqueue]

/-- Settles O26: the action writes Q alone, and the sum is `inc16`. -/
theorem incrementPairEnqueuesSum : Obligations.IncrementPairEnqueuesSum := by
  intro p s
  have h := exec_inc16Instr p s
  exact ⟨_, _, h, toNat_inc16 (s.getPair p), rfl, fun r _ => s.getReg_enqueue _ r, rfl, exec_dispatchFrame h⟩

/-- Settles O27, by `exec_next`. -/
theorem everyInstructionCompletesAtDispatch : Obligations.EveryInstructionCompletesAtDispatch := by
  intro i s
  obtain ⟨t, h, -, -, -, -, -, hqueue⟩ := exec_next i s
  exact ⟨t, h, exec_dispatchFrame h, hqueue⟩

/-- Settles O28: outside the ALU an action commutes with `setFlags`; an ALU action overwrites F; so for Draining steps. -/
theorem flagsWrittenByAluAndCarryReadByAdcSbc : Obligations.FlagsWrittenByAluAndCarryReadByAdcSbc :=
  ⟨fun _ _ _ g hi h => exec_setFlags_of_not_isAlu hi h g,
    fun _ r _ _ _ h hcarry => (exec_aluInstr_setFlags hcarry r).trans h,
    fun _ _ g hq h => (step_next_cases h).setFlags_of_draining hq g⟩

end

section
/-! PROOFS. One step: the queue it leaves (40_execution_engine.md R83), the fault it latches (60_exceptions.md R156, R157)
and its one access of the byte store (20_memory.md R37). -/

namespace Sys2Proof.Machine

/-! ### the queue -/

/-- A dispatch action appends one entry for each step of the instruction after its first (40_execution_engine.md R80). -/
theorem exec_queue_length {i : Instr} {s t : State} (h : exec i s = .next t) :
    t.queue.length + 1 = s.queue.length + i.length := by
  obtain ⟨k, rfl⟩ := exists_class i
  cases k with
  | ld dst r =>
    obtain rfl := Host.Outcome.next.inj ((exec_ldInstr dst r s).symm.trans h)
    simp [InstrClass.instr]
  | inc8 r =>
    obtain rfl := Host.Outcome.next.inj ((exec_inc8Instr r s).symm.trans h)
    simp [InstrClass.instr]
  | alu op r =>
    obtain rfl := Host.Outcome.next.inj ((exec_aluInstr op r s).symm.trans h)
    simp [InstrClass.instr]
  | ld16 p =>
    obtain rfl := Host.Outcome.next.inj ((exec_ld16Instr p s).symm.trans h)
    simp [InstrClass.instr]
  | store m =>
    obtain rfl := Host.Outcome.next.inj ((exec_storeInstr m s).symm.trans h)
    simp [InstrClass.instr]
  | inc16 p =>
    obtain rfl := Host.Outcome.next.inj ((exec_inc16Instr p s).symm.trans h)
    simp [InstrClass.instr]

/-- From Idle, the entries left are the steps of the instruction still to come. -/
theorem NextCase.queue_length_of_idle {s t : State} (h : NextCase s t) (hq : s.queue = []) {i : Instr}
    (hd : decodeOpcode (s.byteAt s.pc) = some i) : t.queue.length + 1 = i.length := by
  cases h with
  | dispatched j _ _ _ hj he =>
    cases hj.symm.trans hd
    rw [exec_queue_length he, s.advancePc_queue, hq, List.length_nil, Nat.zero_add]
  | loaded _ _ _ hcons _ _ => cases hq.symm.trans hcons
  | stored _ _ _ _ hcons _ _ => cases hq.symm.trans hcons
  | wrotePair _ _ _ _ hcons _ => cases hq.symm.trans hcons

/-- A Draining step removes the front entry. -/
theorem NextCase.queue_eq_of_draining {s t : State} (h : NextCase s t) {e : MicroOp} {es : List MicroOp}
    (hq : s.queue = e :: es) : t.queue = es := by
  cases h with
  | dispatched _ _ hempty _ _ _ => cases hempty.symm.trans hq
  | loaded _ _ _ _ _ ht => simp [ht, hq]
  | stored _ _ _ _ _ _ ht => simp [ht, hq]
  | wrotePair _ _ _ _ _ ht => simp [ht, hq]

/-! ### the latch -/

theorem State.accessOf_of_faulted {s : State} {r : FaultRecord} (hf : s.fault = some r) : s.accessOf = none := by
  simp [State.accessOf, hf]

theorem FaultCase.left_fault {s : State} {f : Fault} (h : FaultCase s f) : f.left.fault = some f.record := by
  rw [h.left_eq]

/-- The state a failing step leaves answers the same fault again. -/
theorem FaultCase.step_left {s : State} {f : Fault} (h : FaultCase s f) : step f.left = .fault f := by
  rw [step_faulted h.left_fault, f.report_record]

/-- Where PC is after each kind of fault, the core having run (60_exceptions.md R157). -/
theorem FaultCase.left_pc {s : State} {f : Fault} (h : FaultCase s f) (hrun : s.fault = none) :
    (∀ a k l, f = .busFault a k l → l.pc = s.pc) ∧ (∀ op a l, f = .decodeFault op a l → l.pc = s.pc + 1) := by
  cases h with
  | latched r hf _ => cases hrun.symm.trans hf
  | unmapped _ _ _ _ hrec => subst hrec; exact ⟨nofun, by rintro _ _ _ ⟨⟩; rfl⟩
  | fetchRejected _ _ _ hrec => subst hrec; exact ⟨by rintro _ _ _ ⟨⟩; rfl, nofun⟩
  | loadRejected _ _ _ _ _ hrec => subst hrec; exact ⟨by rintro _ _ _ ⟨⟩; rfl, nofun⟩
  | storeRejected _ _ _ _ _ _ hrec => subst hrec; exact ⟨by rintro _ _ _ ⟨⟩; rfl, nofun⟩

/-! ### the access -/

/-- A step that succeeds either wrote the byte of its one write access, or left the byte store alone. -/
theorem NextCase.mem_cases {s t : State} (h : NextCase s t) :
    (∃ a v, s.accessOf = some (.writeByte a v) ∧ t.mem = (s.setByte a v).mem) ∨
      ((∀ a v, s.accessOf ≠ some (.writeByte a v)) ∧ t.mem = s.mem) := by
  cases h with
  | dispatched i hf hq _ _ he =>
    obtain ⟨-, -, -, hmem, -⟩ := exec_frame he
    exact .inr ⟨by simp [State.accessOf_idle hf hq], hmem⟩
  | loaded r es hf hq _ ht => exact .inr ⟨by simp [State.accessOf_loadImm8 hf hq], by simp [ht]⟩
  | stored a v es hf hq _ ht => exact .inl ⟨a, v, State.accessOf_storeMem hf hq, by rw [ht]; rfl⟩
  | wrotePair p v es hf hq ht => exact .inr ⟨by simp [State.accessOf_writeReg16 hf hq], by simp [ht]⟩

/-- The same core bound to a byte store with other contents. -/
def State.withMem (s : State) (m : Memory) : State := { s with mem := m }

theorem exec_withMem {i : Instr} {s t : State} (h : exec i s = .next t) (m : Memory) :
    exec i (s.withMem m) = .next (t.withMem m) := by
  obtain ⟨hpc, -, -, -, hrej, -⟩ := exec_frame h
  have hrebind := exec_rebind h s.pc m s.rejected
  rw [State.rebind, State.rebind, ← hpc, ← hrej] at hrebind
  rwa [State.withMem, State.withMem, ← hpc, ← hrej]

/-- The outcome of a step that succeeds, with other contents that answer its read alike. -/
theorem NextCase.step_withMem {s t : State} (h : NextCase s t) {m : Memory}
    (hread : ∀ a, s.accessOf = some (.readByte a) → m.read a.toNat = s.byteAt a) :
    ∃ u, step (s.withMem m) = .next u ∧ t.coreOf = u.coreOf := by
  cases h with
  | dispatched i hf hq ha hd he =>
    have hbyte : (s.withMem m).byteAt s.pc = s.byteAt s.pc := hread _ (State.accessOf_idle hf hq)
    exact ⟨_, (step_mapped (s := s.withMem m) hf hq ha (hbyte ▸ hd)).trans (exec_withMem he m), rfl⟩
  | loaded r es hf hq ha ht =>
    have hbyte : (s.withMem m).byteAt s.pc = s.byteAt s.pc := hread _ (State.accessOf_loadImm8 hf hq)
    refine ⟨_, step_loadImm8 (s := s.withMem m) hf hq ha, ?_⟩
    rw [ht, ← hbyte]
    cases r <;> rfl
  | stored a v es hf hq ha ht => exact ⟨_, step_storeMem (s := s.withMem m) hf hq ha, by rw [ht]; rfl⟩
  | wrotePair p v es hf hq ht =>
    refine ⟨_, step_writeReg16 (s := s.withMem m) hf hq, ?_⟩
    rw [ht]
    cases p <;> rfl

/-- The outcome of a step that fails, with other contents that answer its read alike. -/
theorem FaultCase.step_withMem {s : State} {f : Fault} (h : FaultCase s f) {m : Memory}
    (hread : ∀ a, s.accessOf = some (.readByte a) → m.read a.toNat = s.byteAt a) :
    ∃ g, step (s.withMem m) = .fault g ∧ f.record = g.record ∧ f.left.coreOf = g.left.coreOf := by
  cases h with
  | latched r hf hrec =>
    refine ⟨_, step_faulted (s := s.withMem m) hf, ?_, ?_⟩
    · rw [hrec, FaultRecord.record_report, FaultRecord.record_report]
    · rw [hrec, FaultRecord.left_report, FaultRecord.left_report]
      rfl
  | unmapped hf hq ha hd hrec =>
    have hbyte : (s.withMem m).byteAt s.pc = s.byteAt s.pc := hread _ (State.accessOf_idle hf hq)
    refine ⟨_, step_unmapped (s := s.withMem m) hf hq ha (hbyte ▸ hd), ?_⟩
    rw [hrec, ← hbyte]
    exact ⟨rfl, rfl⟩
  | fetchRejected hf hq ha hrec =>
    exact ⟨_, step_fetch_rejected (s := s.withMem m) hf hq ha, hrec ▸ rfl, hrec ▸ rfl⟩
  | loadRejected r es hf hq ha hrec =>
    exact ⟨_, step_loadImm8_rejected (s := s.withMem m) hf hq ha, hrec ▸ rfl, hrec ▸ rfl⟩
  | storeRejected a v es hf hq ha hrec =>
    exact ⟨_, step_storeMem_rejected (s := s.withMem m) hf hq ha, hrec ▸ rfl, hrec ▸ rfl⟩

end Sys2Proof.Machine
end

section
open Sys2Proof Sys2Proof.Machine

/-- Settles O31: what a step that succeeds leaves in Q, and that the state a fault leaves answers it again. -/
theorem schedulerTransitions : Obligations.SchedulerTransitions := by
  refine ⟨fun s t h => ?_, fun s f h => ?_⟩
  · have hnext := step_next_cases h
    exact ⟨fun hq i hd => hnext.queue_length_of_idle hq hd, fun _ _ hq => hnext.queue_eq_of_draining hq,
      fun _ hq => hnext.queue_eq_of_draining hq⟩
  · have hfault := step_fault_cases h
    exact ⟨by rw [hfault.left_eq], hfault.step_left⟩

/-- Settles O41: the four cases of a failing step that was not stopped before. -/
theorem failingStepLeavesStateOfTable : Obligations.FailingStepLeavesStateOfTable := by
  intro s f hrun h
  cases step_fault_cases h with
  | latched r hf _ => cases hrun.symm.trans hf
  | unmapped _ hq ha _ hrec => exact .inr (.inl ⟨hq, ha, hrec ▸ rfl, hrec ▸ rfl⟩)
  | fetchRejected _ hq ha hrec => exact .inl ⟨hq, ha, hrec ▸ rfl, hrec ▸ rfl⟩
  | loadRejected r es _ hq ha hrec => exact .inr (.inr (.inl ⟨r, es, hq, ha, hrec ▸ rfl, hrec ▸ rfl⟩))
  | storeRejected a v es _ hq ha hrec => exact .inr (.inr (.inr ⟨a, v, es, hq, ha, hrec ▸ rfl, hrec ▸ rfl⟩))

/-- Settles O42, by the laws of the latch. -/
theorem faultIsSticky : Obligations.FaultIsSticky := by
  refine ⟨fun s f h => ?_, fun s r hf => ?_⟩
  · have hfault := step_fault_cases h
    exact ⟨hfault.left_fault, hfault.step_left, State.accessOf_of_faulted hfault.left_fault⟩
  · exact ⟨State.accessOf_of_faulted hf, _, step_faulted hf, r.record_report s, r.left_report s⟩

/-- Settles O47: a step that succeeds wrote the byte of its write access or none, a failing one none. -/
theorem stepWritesOnlyItsAccess : Obligations.StepWritesOnlyItsAccess := by
  refine ⟨fun s t hm h => ?_, fun s f h => by rw [(step_fault_cases h).left_eq]⟩
  rcases (step_next_cases h).mem_cases with ⟨a, v, haccess, hmem⟩ | ⟨hnone, hmem⟩
  · have hbytes (b : Addr) : t.byteAt b = if b = a then v else s.byteAt b := by
      rw [← s.byteAt_setByte a b v hm, State.byteAt, State.byteAt, hmem]
    refine ⟨fun b w hb => ?_, fun hno => absurd haccess (hno a v)⟩
    cases haccess.symm.trans hb
    exact ⟨(hbytes a).trans (if_pos rfl), fun b hb => (hbytes b).trans (if_neg hb)⟩
  · exact ⟨fun b v hb => absurd hb (hnone b v), fun _ => sameBytes_of_mem_eq hmem⟩

/-- Settles O48: each case of a step is the same case with other contents that answer its read alike. -/
theorem stepReadsOnlyItsAccess : Obligations.StepReadsOnlyItsAccess := by
  intro s m hread
  rcases step_cases s with ⟨t, hstep, hnext⟩ | ⟨f, hstep, hfault⟩
  · obtain ⟨u, hu, hcore⟩ := hnext.step_withMem hread
    rw [hstep, ← State.withMem, hu]
    exact hcore
  · obtain ⟨g, hg, hsame⟩ := hfault.step_withMem hread
    rw [hstep, ← State.withMem, hg]
    exact hsame

end

section
/-! PROOFS. Runs: of steps alone, and of host steps and environment writes in any order (20_memory.md R42). -/

namespace Sys2Proof.Machine

/-! ### runs of steps -/

theorem steps_succ_of_next {s t : State} (h : step s = .next t) (k : Nat) : steps (k + 1) s = steps k t := by
  simp only [steps, h]

theorem steps_one (s : State) : steps 1 s = step s := by
  rcases step_cases s with ⟨t, h, -⟩ | ⟨f, h, -⟩ <;> simp only [steps, h]

/-- A run that succeeds is a first step that succeeds and a run after it. -/
theorem steps_succ_eq_next {k : Nat} {s t : State} (h : steps (k + 1) s = .next t) :
    ∃ u, step s = .next u ∧ steps k u = .next t := by
  rcases step_cases s with ⟨u, hu, -⟩ | ⟨f, hf, -⟩
  · exact ⟨u, hu, (steps_succ_of_next hu k).symm.trans h⟩
  · simp only [steps, hf] at h
    cases h

theorem steps_pc {n : Nat} {s t : State} (h : steps n s = .next t) : t.pc = s.pc + BitVec.ofNat 16 n := by
  induction n generalizing s with
  | zero => cases h; exact (BitVec.add_zero _).symm
  | succ n ih =>
    obtain ⟨u, hu, ht⟩ := steps_succ_eq_next h
    obtain ⟨-, hpc, -⟩ := (step_next_cases hu).frame
    rw [ih ht, hpc, BitVec.add_assoc, Nat.add_comm, BitVec.ofNat_add]
    rfl

/-- A run that succeeds does not stop the core. -/
theorem steps_fault {n : Nat} {s t : State} (h : steps n s = .next t) (hf : s.fault = none) : t.fault = none := by
  induction n generalizing s with
  | zero => cases h; exact hf
  | succ n ih =>
    obtain ⟨u, hu, ht⟩ := steps_succ_eq_next h
    obtain ⟨hrun, -⟩ := (step_next_cases hu).frame
    exact ih ht hrun

/-- As long as Q lasts, each step takes one entry from its front. -/
theorem steps_queue_length {n : Nat} {s t : State} (h : steps n s = .next t) (hn : n ≤ s.queue.length) :
    t.queue.length + n = s.queue.length := by
  induction n generalizing s with
  | zero => cases h; rfl
  | succ n ih =>
    obtain ⟨u, hu, ht⟩ := steps_succ_eq_next h
    obtain ⟨e, es, hq⟩ := List.exists_cons_of_length_pos (Nat.lt_of_lt_of_le n.succ_pos hn)
    have hes := (step_next_cases hu).queue_eq_of_draining hq
    rw [hq, List.length_cons] at hn ⊢
    have hrest := ih ht (by rw [hes]; exact Nat.le_of_succ_le_succ hn)
    rw [hes] at hrest
    omega

/-- Inside an instruction Q holds one entry for each of its steps still to come. -/
theorem steps_queue_length_of_boundary {n : Nat} {s t : State} {i : Instr} (hs : s.AtBoundary)
    (hd : decodeOpcode (s.byteAt s.pc) = some i) (h : steps n s = .next t) (hpos : 0 < n) (hn : n ≤ i.length) :
    t.queue.length + n = i.length := by
  obtain ⟨n, rfl⟩ := Nat.exists_eq_succ_of_ne_zero (Nat.ne_of_gt hpos)
  obtain ⟨hq, -⟩ := hs
  obtain ⟨u, hu, ht⟩ := steps_succ_eq_next h
  have hfirst := (step_next_cases hu).queue_length_of_idle hq hd
  have hrest := steps_queue_length ht (by omega)
  omega

/-! ### runs of events -/

/-- A property of the state after a step holds when it holds of both outcomes. -/
theorem State.afterStep_of_cases {P : State → Prop} (s : State) (hnext : ∀ t, NextCase s t → P t)
    (hfault : ∀ f, FaultCase s f → P f.left) : P s.afterStep := by
  rw [State.afterStep]
  rcases step_cases s with ⟨t, h, hc⟩ | ⟨f, h, hc⟩
  · rw [h]; exact hnext t hc
  · rw [h]; exact hfault f hc

/-- What every event keeps holds after every sequence of events. -/
theorem runEvents_of_kept {P : State → Prop} (hkept : ∀ (s : State) (e : Event), P s → P (e.apply s)) (es : List Event)
    {s : State} (hs : P s) : P (runEvents es s) := by
  induction es generalizing s with
  | nil => exact hs
  | cons e es ih => exact ih (hkept s e hs)

theorem Event.inv_apply (s : State) (e : Event) (hs : s.Inv) : (e.apply s).Inv := by
  cases e with
  | hostStep => exact s.afterStep_of_cases (fun _ h => h.inv hs) (fun _ h => h.inv hs)
  | envWrite a v => exact ⟨s.wf_setByte a v hs.mem, hs.queue, hs.fault⟩

/-- No event writes SP or the set of accepted addresses (10_state.md R19; 20_memory.md R33). -/
theorem Event.sp_rejected_apply (s : State) (e : Event) :
    (e.apply s).sp = s.sp ∧ (e.apply s).rejected = s.rejected := by
  cases e with
  | hostStep =>
    refine s.afterStep_of_cases (P := fun t => t.sp = s.sp ∧ t.rejected = s.rejected) (fun t h => ?_) (fun f h => ?_)
    · obtain ⟨-, -, hframe⟩ := h.frame
      exact hframe
    · rw [h.left_eq]
      exact ⟨rfl, rfl⟩
  | envWrite a v => exact ⟨rfl, rfl⟩

theorem State.afterStep_of_faulted {s : State} {r : FaultRecord} (hf : s.fault = some r) : s.afterStep = s := by
  rw [State.afterStep, step_faulted hf]
  exact r.left_report s

theorem Event.coreOf_apply_of_faulted {s : State} {r : FaultRecord} (hf : s.fault = some r) (e : Event) :
    (e.apply s).coreOf = s.coreOf := by
  cases e with
  | hostStep => exact congrArg State.coreOf (State.afterStep_of_faulted hf)
  | envWrite a v => exact s.coreOf_setByte a v

end Sys2Proof.Machine
end

section
open Sys2Proof Sys2Proof.Machine

/-- Settles O39: PC over runs by `steps_pc`, and over a failing step by its cases. -/
theorem successfulStepsAdvancePcByOne : Obligations.SuccessfulStepsAdvancePcByOne := by
  refine ⟨fun n s t h => ?_, fun s l a k hrun h => ?_, fun s l op a hrun h => ?_⟩
  · rw [steps_pc h, BitVec.toNat_add, BitVec.toNat_ofNat, Nat.add_mod_mod]
  · obtain ⟨hbus, -⟩ := (step_fault_cases h).left_pc hrun
    exact hbus a k l rfl
  · obtain ⟨-, hdecode⟩ := (step_fault_cases h).left_pc hrun
    exact hdecode op a l rfl

/-- Settles O43: a stopped core is kept by each event, FAULT being part of it. -/
theorem stoppedCoreNeverChangesAgain : Obligations.StoppedCoreNeverChangesAgain := by
  intro es s hs
  obtain ⟨r, hr⟩ := Option.ne_none_iff_exists'.1 hs
  refine runEvents_of_kept (P := fun t => t.coreOf = s.coreOf) (fun t e ht => ?_) es rfl
  have hfault : t.coreOf.fault = some r := ht ▸ hr
  exact (Event.coreOf_apply_of_faulted (s := t) hfault e).trans ht

/-- Settles O51: the invariant, SP and the accepted addresses are kept by each event. -/
theorem eventsKeepInvariantAndSp : Obligations.EventsKeepInvariantAndSp := by
  intro es s
  refine ⟨fun hs => runEvents_of_kept Event.inv_apply es hs,
    runEvents_of_kept (P := fun t => t.sp = s.sp ∧ t.rejected = s.rejected) (fun t e ht => ?_) es ⟨rfl, rfl⟩⟩
  obtain ⟨hsp, hrej⟩ := Event.sp_rejected_apply t e
  exact ht.imp hsp.trans hrej.trans

end

section
/-! PROOFS. A placed instruction (70_reset_and_hazards.md, section 2; log 8). -/

namespace Sys2Proof.Machine

theorem regsBut_placeWord (s : State) (nbits w : Nat) : RegsBut [] s (placeWord s nbits w) := by
  intro r _
  cases r <;> simp [State.getReg]

/-- The first laid byte stays, since the two after it are laid at other addresses. -/
theorem byteAt_pc_placeWord {s : State} (hm : s.mem.wf = true) (nbits w : Nat) :
    (placeWord s nbits w).byteAt s.pc = BitVec.ofNat 8 (w % 2 ^ nbits) := by
  rw [byteAt_placeWord _ _ _ _ hm, if_neg (ne_add_one_add_one s.pc), if_neg (ne_add_one s.pc), if_pos rfl]

theorem step_placeWord {s : State} {nbits w : Nat} {i : Instr} (hm : s.mem.wf = true)
    (hi : decodeTableWord nbits w = some i) :
    step (placeWord s nbits w) = exec i (placeWord s nbits w).advancePc := by
  refine step_mapped (placeWord_fault s nbits w) (placeWord_queue s nbits w) ?_ ?_
  · simp [accepts_placeWord]
  · rw [placeWord_pc, byteAt_pc_placeWord hm]
    exact decodeOpcode_of_decodeTableWord hi

end Sys2Proof.Machine
end

section
open Sys2Proof Sys2Proof.Machine

/-- Settles O53: the placed core fetches the word's first byte, and only the three laid addresses differ. -/
theorem placedWordIsRunByNextStep : Obligations.PlacedWordIsRunByNextStep := by
  intro s nbits w i hm hi
  refine ⟨step_placeWord hm hi, regsBut_placeWord s nbits w, placeWord_f s nbits w, placeWord_pc s nbits w,
    placeWord_sp s nbits w, fun a h0 h1 h2 => ?_⟩
  have h2' : a ≠ s.pc + 1 + 1 := by rwa [BitVec.add_assoc]
  constructor
  · exact (byteAt_placeWord s nbits w a hm).trans (by rw [if_neg h2', if_neg h1, if_neg h0])
  · exact (accepts_placeWord s nbits w a).trans
      (by simp only [decide_eq_false h0, decide_eq_false h1, decide_eq_false h2', Bool.false_or])

end

section
/-! PROOFS. Whole instructions: the run of each class is its one-shot effect (40_execution_engine.md R80). -/

namespace Sys2Proof.Machine

theorem steps_instr (k : InstrClass) : k.steps = k.instr.length := by
  cases k <;> simp [InstrClass.steps, InstrClass.instr]

/-- The eight ALU effects are the one template of dispatch; cp writes A back to itself (41_alu.md R99). -/
theorem accumulate_aluOutput (op : AluOp) (y : Byte) (s : State) :
    accumulate (aluOutput op s.a y s.f.c) s = .next (aluEffect op y s) := by
  cases op <;> rfl

section
variable (s : State)

theorem wholeEffect_ld16 (p : Pair) : (InstrClass.ld16 p).wholeEffect s =
    (s.setPair p (s.byteAt (s.pc + 2) ++ s.byteAt (s.pc + 1))).midway (s.pc + 3) s.queue s.mem := by
  cases p <;> rfl

/-- The pair of a store is modified, the byte written at the address it held before. -/
theorem wholeEffect_store (m : StoreMode) : (InstrClass.store m).wholeEffect s =
    (postModify m s).midway (s.pc + 2) s.queue (s.mem.write (storeAddr m s).toNat s.a) := by
  cases m <;> rfl

theorem wholeEffect_inc16 (p : Pair) : (InstrClass.inc16 p).wholeEffect s =
    (s.setPair p (s.getPair p + 1)).midway (s.pc + 2) s.queue s.mem := by
  cases p <;> rfl

theorem State.getPair_midway (pc : Addr) (es : List MicroOp) (m : Memory) (p : Pair) :
    (s.midway pc es m).getPair p = s.getPair p := by
  rw [State.getPair, State.getReg_midway, State.getReg_midway, State.getPair]

end

/-! ### one step -/

/-- The first step, from the action on the state before it: dispatch depends on neither PC nor the byte store. -/
theorem step_of_exec {s t : State} {i : Instr} (hs : s.AtBoundary) (hd : decodeOpcode (s.byteAt s.pc) = some i)
    (ha : s.accepts s.pc = true) (he : exec i s = .next t) : step s = .next { t with pc := s.pc + 1 } := by
  obtain ⟨hq, hf⟩ := hs
  obtain ⟨-, -, -, hmem, hrej, -⟩ := exec_frame he
  have h := exec_rebind he (s.pc + 1) s.mem s.rejected
  rw [State.rebind, State.rebind, ← hmem, ← hrej] at h
  rw [step_mapped hf hq ha hd, State.advancePc, inc16, ← h, hmem, hrej]

/-! ### the run of each class -/

section
variable {s : State} (hs : s.AtBoundary)
include hs

theorem steps_ld16 {p : Pair} (hd : decodeOpcode (s.byteAt s.pc) = some (ld16Instr p)) (h0 : s.accepts s.pc = true)
    (h1 : s.accepts (s.pc + 1) = true) (h2 : s.accepts (s.pc + 2) = true) :
    steps 3 s = .next ((InstrClass.ld16 p).wholeEffect s) := by
  obtain ⟨hfirst, -, hsecond, -, hthird, -⟩ := loadPairThreeSteps p s _ _ s.mem s.mem hs hd rfl rfl
  obtain ⟨hq, -⟩ := hs
  rw [steps_succ_of_next (hfirst h0), steps_succ_of_next (hsecond h1), steps_one, wholeEffect_ld16, hq]
  exact hthird h2

theorem steps_store {m : StoreMode} (hd : decodeOpcode (s.byteAt s.pc) = some (storeInstr m)) (h0 : s.accepts s.pc = true)
    (h1 : s.accepts (storeAddr m s) = true) : steps 2 s = .next ((InstrClass.store m).wholeEffect s) := by
  obtain ⟨hfirst, -, hsecond, -⟩ := storeTwoSteps m s _ s.mem hs hd rfl
  obtain ⟨hq, -⟩ := hs
  rw [steps_succ_of_next (hfirst h0), steps_one, wholeEffect_store, hq, postModify_eq]
  exact hsecond h1

theorem steps_inc16 {p : Pair} (hd : decodeOpcode (s.byteAt s.pc) = some (inc16Instr p)) (h0 : s.accepts s.pc = true) :
    steps 2 s = .next ((InstrClass.inc16 p).wholeEffect s) := by
  obtain ⟨hfirst, -, -, -, hsecond⟩ := incrementPairTwoSteps p s _ s.mem hs hd rfl
  obtain ⟨hq, -⟩ := hs
  rw [steps_succ_of_next (hfirst h0), steps_one, wholeEffect_inc16, hq]
  exact hsecond

/-- Every class, run for its number of steps, does its one-shot effect. -/
theorem steps_eq_wholeEffect {k : InstrClass} (hd : decodeOpcode (s.byteAt s.pc) = some k.instr)
    (ha : ∀ a ∈ k.accessed s, s.accepts a = true) : steps k.steps s = .next (k.wholeEffect s) := by
  cases k with
  | ld dst r =>
    exact (steps_one s).trans (step_of_exec hs hd (ha s.pc (by simp [InstrClass.accessed])) (exec_ldInstr dst r s))
  | inc8 r =>
    exact (steps_one s).trans (step_of_exec hs hd (ha s.pc (by simp [InstrClass.accessed])) (exec_inc8Instr r s))
  | alu op r =>
    exact (steps_one s).trans (step_of_exec hs hd (ha s.pc (by simp [InstrClass.accessed]))
      ((exec_aluInstr op r s).trans (accumulate_aluOutput op _ s)))
  | ld16 p =>
    simp only [InstrClass.accessed, List.forall_mem_cons] at ha
    obtain ⟨h0, h1, h2, -⟩ := ha
    exact steps_ld16 hs hd h0 h1 h2
  | store m =>
    simp only [InstrClass.accessed, List.forall_mem_cons] at ha
    obtain ⟨h0, h1, -⟩ := ha
    exact steps_store hs hd h0 h1
  | inc16 p => exact steps_inc16 hs hd (ha s.pc (by simp [InstrClass.accessed]))

end

/-! ### the skipped byte (40_execution_engine.md R79; 92_eei_decisions.md D16) -/

section
variable (s : State) (a : Addr) (v : Byte)

theorem accessed_setByte (k : InstrClass) : k.accessed (s.setByte a v) = k.accessed s := by
  cases k with
  | store m => simp [InstrClass.accessed, storeAddr]
  | ld _ _ | inc8 _ | alu _ _ | ld16 _ | inc16 _ => rfl

/-- What a two-step class leaves of the core does not depend on the byte store. -/
theorem coreOf_wholeEffect_setByte {k : InstrClass} (hk : k.steps = 2) :
    (k.wholeEffect (s.setByte a v)).coreOf = (k.wholeEffect s).coreOf := by
  cases k with
  | store m => cases m <;> rfl
  | inc16 p => cases p <;> rfl
  | ld _ _ | inc8 _ | alu _ _ | ld16 _ => cases hk

variable {s a v}

theorem byteAt_wholeEffect_store (hm : s.mem.wf = true) (m : StoreMode) (b : Addr) :
    ((InstrClass.store m).wholeEffect s).byteAt b = if b = storeAddr m s then s.a else s.byteAt b := by
  rw [wholeEffect_store]
  exact s.byteAt_setByte (storeAddr m s) b s.a hm

/-- A byte that only one of two byte stores was given is the only byte a two-step class can leave different. -/
theorem byteAt_wholeEffect_setByte (hm : s.mem.wf = true) {k : InstrClass} (hk : k.steps = 2) {b : Addr} (hb : b ≠ a) :
    (k.wholeEffect (s.setByte a v)).byteAt b = (k.wholeEffect s).byteAt b := by
  have hbyte : (s.setByte a v).byteAt b = s.byteAt b := (s.byteAt_setByte a b v hm).trans (if_neg hb)
  cases k with
  | store m =>
    rw [byteAt_wholeEffect_store (s.wf_setByte a v hm), byteAt_wholeEffect_store hm, hbyte, storeAddr, s.getPair_setByte]
    rfl
  | inc16 p => exact ((State.byteAt_setPair _ p _ b).trans hbyte).trans (s.byteAt_setPair p _ b).symm
  | ld _ _ | inc8 _ | alu _ _ | ld16 _ => cases hk

end

end Sys2Proof.Machine
end

section
open Sys2Proof Sys2Proof.Machine

/-- Settles O34: the two steps are the store's one-shot effect, which writes the one byte and the pair. -/
theorem storeWritesAccumulatorAtPairOnly : Obligations.StoreWritesAccumulatorAtPairOnly := by
  intro m s hs hm hd h0 h1
  refine ⟨_, steps_store hs hd h0 h1, ?_, fun x hx => ?_, ?_⟩
  · exact (byteAt_wholeEffect_store hm m _).trans (if_pos rfl)
  · exact (byteAt_wholeEffect_store hm m x).trans (if_neg hx)
  · rw [wholeEffect_store]
    exact ⟨(State.getPair_midway _ _ _ _ _).trans (getPair_postModify s m),
      fun r hr => (State.getReg_midway _ _ _ _ r).trans (regsBut_postModify s m r hr), postModify_f s m, postModify_sp s m⟩

/-- Settles O36: the run of each class, and Q and PC counted over it. -/
theorem instructionRunIsItsWholeEffect : Obligations.InstructionRunIsItsWholeEffect := by
  refine ⟨fun i => ?_, fun k s hs hd ha => ?_⟩
  · obtain ⟨k, rfl⟩ := exists_class i
    exact ⟨k, rfl, steps_instr k⟩
  have hf : s.fault = none := hs.right
  have hrun := steps_eq_wholeEffect hs hd ha
  have hlen := steps_instr k
  have hpos := length_pos k.instr
  have hqueue := steps_queue_length_of_boundary hs hd hrun (by omega) (by omega)
  refine ⟨hrun, ⟨List.length_eq_zero_iff.1 (by omega), steps_fault hrun hf⟩, hlen ▸ steps_pc hrun,
    fun j t hj hjk ht hempty => ?_⟩
  have hinside := steps_queue_length_of_boundary hs hd ht hj (by omega)
  rw [hempty, List.length_nil] at hinside
  omega

/-- Settles O37: with another skipped byte the fetch and the accesses are the same, and so is the one-shot effect. -/
theorem skippedByteHasNoEffect : Obligations.SkippedByteHasNoEffect := by
  intro k s v hs hm hd hk ha
  have hfetch : (s.setByte (s.pc + 1) v).byteAt s.pc = s.byteAt s.pc :=
    (s.byteAt_setByte (s.pc + 1) s.pc v hm).trans (if_neg (ne_add_one s.pc))
  have hrun := steps_eq_wholeEffect hs hd ha
  have hrun' : steps k.steps (s.setByte (s.pc + 1) v) = .next (k.wholeEffect (s.setByte (s.pc + 1) v)) :=
    steps_eq_wholeEffect (s := s.setByte (s.pc + 1) v) hs (hfetch.symm ▸ hd) (by rwa [accessed_setByte])
  rw [hk] at hrun hrun'
  exact ⟨_, _, hrun, hrun', steps_pc hrun, coreOf_wholeEffect_setByte s _ v hk,
    fun a h => byteAt_wholeEffect_setByte hm hk h⟩

/-- Settles O38: the write step leaves the byte where the next step, an Idle one, fetches. -/
theorem storeIsSeenByNextFetch : Obligations.StoreIsSeenByNextFetch := by
  intro s v i hf hm hq ha hd
  obtain ⟨-, hstore, -⟩ := drainingStepExecutesFrontEntry s [] hf
  obtain ⟨-, hstep, -⟩ := hstore (s.pc + 1) v hq
  have hbyte : (s.setByte (s.pc + 1) v).byteAt (s.pc + 1) = v := (s.byteAt_setByte _ _ v hm).trans (if_pos rfl)
  have hpc : s.pc + 1 + 1 = s.pc + 2 := BitVec.add_assoc ..
  rw [← hpc]
  exact ⟨_, hstep ha, hbyte, step_mapped (s := s.midway (s.pc + 1) [] (s.setByte (s.pc + 1) v).mem) hf rfl ha
    ((congrArg decodeOpcode hbyte).trans hd)⟩

end
